-- ==== Sys2Proof/Word.lean ====
section
/-! DEFINITION. The two widths of the block (rules R7, R52): the byte and the 16-bit word, and the level of an output line. -/

namespace Sys2Proof

/-- 8 bits: an opcode, a parameter, one unit on the bus (rule R7). -/
abbrev Byte := BitVec 8

/-- 16 bits, unsigned: a coordinate or a colour, the spec's `u16` (rule R7). -/
abbrev Word := BitVec 16

/-- The level last driven on an output line (rules R20, R26, R27): `undriven` stands only before the first drive (rule R41). -/
inductive Level where
  | undriven
  | low
  | high
deriving DecidableEq, Repr, Inhabited

/-- A byte on the wire tagged with the selector level under which it was sent (the wire view of rule R9). -/
abbrev WirePair := Level × Byte

end Sys2Proof
end

