-- ==== Sys2Proof/Syntax.lean ====
section
/-! DEFINITION. The instruction set as syntax: the three layers of rule R80 (wire commands, host operations, micro-operations),
one constructor of `Instr` for each row of spec/opcode_table.json, in the table's order. -/

namespace Sys2Proof

/-- The two controller generations, one opcode table each (rules R2, R33). -/
inductive Generation where
  | older
  | newer
deriving DecidableEq, Repr, Inhabited

/-- The opcode names of the two tables (rules R89, R98, R101); the order carries no meaning. The source gives the older-only codes no
name and no count (rule R126): twelve names are those of spec/opcode_table.json, `further k` is any code beyond them, and which
of them the older table holds is configuration (`OlderOpcodes`). Log entry 28. -/
inductive Mnemonic where
  | swreset | slpin | slpout | ptlon | noron | invoff | invon | dispoff | dispon
  | caset | raset | ramwr | ramrd | madctl | colmod
  | frmctr1 | frmctr2 | frmctr3 | invctr | pwctr1 | pwctr2 | pwctr3 | pwctr4 | pwctr5 | vmctr1 | gmctrp1 | gmctrn1
  | further (k : Nat)
deriving DecidableEq, Repr, Inhabited

/-- The four orientation variants (rules R29, R200). -/
inductive Orientation where
  | normal
  | rotated
  | mirroredA
  | mirroredB
deriving DecidableEq, Repr, Inhabited

/-- One element of the drawing adapter's sequence (rules R96, R230). -/
structure Pixel where
  x : Word
  y : Word
  color : Word
deriving DecidableEq, Repr, Inhabited

/-- The instructions. The first 27 are the wire commands with the operands of their format (rules R81 to R86): a command whose
parameters the spec leaves open (format WL) or that no operation issues carries the general parameter list of rule R81. -/
inductive Instr where
  /-- SWRESET, format W0 (rule R111). -/
  | swreset
  /-- SLPIN, never issued by an operation (rules R112, R140). -/
  | slpin (ps : List Byte)
  /-- SLPOUT, format W0 (rule R113). -/
  | slpout
  /-- PTLON, never issued by an operation (rules R114, R140). -/
  | ptlon (ps : List Byte)
  /-- NORON, never issued by an operation (rules R115, R140). -/
  | noron (ps : List Byte)
  /-- INVOFF, format W0 (rule R116). -/
  | invoff
  /-- INVON, format W0 (rule R117). -/
  | invon
  /-- DISPOFF, never issued by an operation (rules R118, R140). -/
  | dispoff (ps : List Byte)
  /-- DISPON, format W0 (rule R119). -/
  | dispon
  /-- CASET, format WA: first and last column, both inclusive (rules R85, R120). -/
  | caset (first last : Word)
  /-- RASET, format WA: first and last row, both inclusive (rules R85, R121). -/
  | raset (first last : Word)
  /-- RAMWR, format WP: one pixel (rules R86, R122). -/
  | ramwr (color : Word)
  /-- RAMRD, never issued by an operation (rules R123, R140). -/
  | ramrd (ps : List Byte)
  /-- MADCTL, format W1 (rules R83, R124). -/
  | madctl (p : Byte)
  /-- COLMOD, format W1 (rules R83, R125). -/
  | colmod (p : Byte)
  /-- FRMCTR1, format WL (rule R127). -/
  | frmctr1 (ps : List Byte)
  /-- FRMCTR2, format WL (rule R128). -/
  | frmctr2 (ps : List Byte)
  /-- FRMCTR3, format WL (rule R129). -/
  | frmctr3 (ps : List Byte)
  /-- INVCTR, format WL (rule R130). -/
  | invctr (ps : List Byte)
  /-- PWCTR1, format WL (rule R131). -/
  | pwctr1 (ps : List Byte)
  /-- PWCTR2, format WL (rule R132). -/
  | pwctr2 (ps : List Byte)
  /-- PWCTR3, format WL (rule R133). -/
  | pwctr3 (ps : List Byte)
  /-- PWCTR4, format WL (rule R134). -/
  | pwctr4 (ps : List Byte)
  /-- PWCTR5, format WL (rule R135). -/
  | pwctr5 (ps : List Byte)
  /-- VMCTR1, format WL (rule R136). -/
  | vmctr1 (ps : List Byte)
  /-- GMCTRP1, never issued by an operation (rules R137, R140). -/
  | gmctrp1 (ps : List Byte)
  /-- GMCTRN1, never issued by an operation (rules R138, R140). -/
  | gmctrn1 (ps : List Byte)
  /-- NEW(rgb, inv), construction (rules R95, R170). -/
  | new (rgb inv : Bool)
  /-- INIT (rules R171, R179). -/
  | init
  /-- SET_ORIENTATION(o) (rule R201). -/
  | setOrientation (o : Orientation)
  /-- SET_PIXEL(x, y, color) (rule R215). -/
  | setPixel (x y color : Word)
  /-- DRAW(ps), the drawing adapter (rules R96, R230). -/
  | draw (pixels : List Pixel)
  /-- SET_ADDRESS_WINDOW(x0, y0, x1, y1) (rule R212). -/
  | setAddressWindow (x0 y0 x1 y1 : Word)
  /-- WRITE_COMMAND(m, ps) (rule R151). -/
  | writeCommand (m : Mnemonic) (ps : List Byte)
  /-- START_DATA (rule R152). -/
  | startData
  /-- WRITE_DATA(bytes), bytes non-empty (rule R153; see WellFormed.lean). -/
  | writeData (bytes : List Byte)
  /-- WRITE_WORD(v) (rule R154). -/
  | writeWord (v : Word)
  /-- HARD_RESET (rule R156). -/
  | hardReset
  /-- DELAY_MS(n), milliseconds (rule R157). -/
  | delayMs (n : Nat)
deriving DecidableEq, Repr

/-- The instructions that make up the public operation surface (rules R93, R95, R96). -/
def Instr.isHostOperation : Instr → Bool
  | .new _ _ | .init | .setOrientation _ | .setPixel _ _ _ | .draw _ => true
  | .swreset | .slpin _ | .slpout | .ptlon _ | .noron _ | .invoff | .invon | .dispoff _ | .dispon => false
  | .caset _ _ | .raset _ _ | .ramwr _ | .ramrd _ | .madctl _ | .colmod _ => false
  | .frmctr1 _ | .frmctr2 _ | .frmctr3 _ | .invctr _ | .pwctr1 _ | .pwctr2 _ | .pwctr3 _ | .pwctr4 _ | .pwctr5 _ => false
  | .vmctr1 _ | .gmctrp1 _ | .gmctrn1 _ => false
  | .setAddressWindow _ _ _ _ | .writeCommand _ _ | .startData | .writeData _ | .writeWord _ | .hardReset | .delayMs _ => false

end Sys2Proof
end

