-- ==== Sys2Proof/Config.lean ====
section
/-! DEFINITION. What an implementation fixes (the parameter table of rule R6) as a record `Params`, and the free values: opaque
constants with no body, so that nothing can be proved of them. The opcode table's fixed values stand in Decode.lean. -/

namespace Sys2Proof

/-- The values of the seven common opcodes that the source does not give (rules R112, R114 to R118, R123; OPEN in rule R6). -/
structure CommonOpcodes where
  slpin : Byte
  ptlon : Byte
  noron : Byte
  invoff : Byte
  invon : Byte
  dispoff : Byte
  ramrd : Byte
deriving DecidableEq, Repr, Inhabited

/-- The opcodes that only the older table holds (rules R126 to R138; OPEN in rule R6): which of the twelve named ones it holds, with their
bytes, and the bytes of any further ones, numbered in order. "A model takes the members and their values from its configuration" (rule
R126). Log entry 28. -/
structure OlderOpcodes where
  frmctr1 : Option Byte
  frmctr2 : Option Byte
  frmctr3 : Option Byte
  invctr : Option Byte
  pwctr1 : Option Byte
  pwctr2 : Option Byte
  pwctr3 : Option Byte
  pwctr4 : Option Byte
  pwctr5 : Option Byte
  vmctr1 : Option Byte
  gmctrp1 : Option Byte
  gmctrn1 : Option Byte
  further : List Byte
deriving DecidableEq, Repr, Inhabited

/-- The orientation table `ORIV` (rules R34, R200; OPEN). -/
structure OrientationBytes where
  normal : Byte
  rotated : Byte
  mirroredA : Byte
  mirroredB : Byte
deriving DecidableEq, Repr, Inhabited

/-- One entry of the configuration sequence of INIT step 4 (rules R35, R175). -/
structure CfgEntry where
  mnemonic : Mnemonic
  params : List Byte
deriving DecidableEq, Repr, Inhabited

/-- `PANEL_W` and `PANEL_H` as they stand in one coordinate frame (rules R6, R59, R66; OPEN). -/
structure PanelSize where
  width : Nat
  height : Nat
deriving DecidableEq, Repr, Inhabited

/-- The panel's size in the frame INIT leaves and in the frame of each orientation (rules R66, R67: the mapping each orientation
produces is not in the source, so the five sizes are unrelated parameters). Used by the environment model only. -/
structure FrameSizes where
  atInit : PanelSize
  normal : PanelSize
  rotated : PanelSize
  mirroredA : PanelSize
  mirroredB : PanelSize
deriving DecidableEq, Repr, Inhabited

/-- The parameters of the block (rule R6). Plain data, constant for the life of a machine. -/
structure Params where
  /-- `GEN`. -/
  gen : Generation
  /-- `OPV(GEN_OLDER, m)` for the common opcodes the source gives no value for. -/
  commonOlder : CommonOpcodes
  /-- `OPV(GEN_NEWER, m)` for the same opcodes (decision D13: separate parameters). -/
  commonNewer : CommonOpcodes
  /-- The older-only opcodes: the members and `OPV(GEN_OLDER, m)`. -/
  olderOnly : OlderOpcodes
  /-- `ORIV`. -/
  oriv : OrientationBytes
  /-- `MADCTL_INIT_BASE`. -/
  madctlInitBase : Byte
  /-- `COLMOD_PARAM`. -/
  colmodParam : Byte
  /-- `CFG(GEN_OLDER)`. -/
  cfgOlder : List CfgEntry
  /-- `CFG(GEN_NEWER)`, `none` where it is not supplied (rule R187). -/
  cfgNewer : Option (List CfgEntry)
  /-- The sequence that the panel at hand requires "for correct display operation" (rules R175, R177, U8). Used by the environment
  model only: of a panel brought up with another one "nothing is claimed" (rule R177). -/
  panelSequence : List CfgEntry
  /-- `T_SWRESET`, milliseconds. -/
  tSwreset : Nat
  /-- `T_SLPOUT`, milliseconds. -/
  tSlpout : Nat
  /-- `T_DISPON`, milliseconds. -/
  tDispon : Nat
  /-- `PANEL_W`, `PANEL_H`. -/
  sizes : FrameSizes
deriving DecidableEq, Repr, Inhabited

/-- FREE VALUE: which errors there are, that is the type `E` of rule R6 (OPEN, "a type parameter"; decision D23). A number is an error where
this says so, and 0 always is, because a bus can fail (rule R240). Log entry 10. Safe. -/
opaque Config.isError : Nat → Bool

/-- The bus transmitter's "opaque transport error", the type `E` of rule R6: a type of which nothing is known but that it has an element.
The block passes an error on unchanged and never looks inside (rule R240, decision D23). DESIGN CHOICE, log entry 10. Safe. -/
structure TransportError where
  tag : Nat
  isError : tag = 0 ∨ Config.isError tag = true
deriving DecidableEq, Repr

/-- What the bus says when the block looks for the answer to a transmission (rules R255, R258): success, an error, or nothing yet. -/
inductive BusReply where
  | ok
  | err (e : TransportError)
  | wait
deriving DecidableEq, Repr, Inhabited

/-- What the delay service says when the block looks whether a delay is over (rules R257, R258, R264): it is, or not yet. -/
inductive DelayReply where
  | returned
  | wait
deriving DecidableEq, Repr, Inhabited

/-- FREE VALUE: the answer the bus gives when no answer is listed in the state (rule R255: the oracle, "with no law relating its
answers"). Applied to the counter `State.draws`. Log entry 7. Safe. -/
opaque Config.busReply : Nat → BusReply

/-- FREE VALUE: whether a delay is over when nothing is listed in the state (rule R258: that it ever is, is an assumption on the
environment). Applied to the counter `State.draws`. Log entry 27. Safe. -/
opaque Config.delayReply : Nat → DelayReply

/-- FREE VALUE: how many bytes of a failed transmission reached the panel (rule R243: "any prefix"). Applied to the counter
`State.draws`; a count beyond the length means all. Log entry 8. Safe. -/
opaque Config.deliveredCount : Nat → Nat

/-- FREE VALUES: the OPEN parameters of rule R6, for the machine that `State.reset` describes. Log entries 2, 22. Safe. -/
opaque Config.commonOlder : CommonOpcodes
/-- See `Config.commonOlder`. -/
opaque Config.commonNewer : CommonOpcodes
/-- See `Config.commonOlder`. -/
opaque Config.olderByte : Mnemonic → Byte
/-- See `Config.commonOlder`. -/
opaque Config.olderFurther : List Byte
/-- See `Config.commonOlder`. -/
opaque Config.oriv : OrientationBytes
/-- See `Config.commonOlder`. -/
opaque Config.colmodParam : Byte
/-- See `Config.commonOlder`. -/
opaque Config.cfgOlder : List CfgEntry
/-- See `Config.commonOlder`. -/
opaque Config.panelSequence : List CfgEntry
/-- See `Config.commonOlder`. -/
opaque Config.tSwreset : Nat
/-- See `Config.commonOlder`. -/
opaque Config.tSlpout : Nat
/-- See `Config.commonOlder`. -/
opaque Config.tDispon : Nat
/-- See `Config.commonOlder`. -/
opaque Config.sizes : FrameSizes

/-- FREE VALUES: the flag straps of the reset input (rule R41: "equivalent to NEW with the same two flag straps"; no default).
Log entry 4. Safe. -/
opaque Config.strapRgb : Bool
/-- See `Config.strapRgb`. -/
opaque Config.strapInv : Bool

end Sys2Proof
end

