-- ==== Sys2Proof/WellFormed.lean ====
section
/-! DEFINITION. Which instructions are well formed. Operands are typed, so every value of every operand is legal (rules R54, R91);
the one condition the spec puts on an operand is that WRITE_DATA carries at least one byte (rule R153). -/

namespace Sys2Proof

/-- `false` exactly for WRITE_DATA of the empty list (rule R153: "a non-empty list of bytes"). -/
def Instr.wellFormed : Instr → Bool
  | .writeData bytes => !bytes.isEmpty
  | .swreset | .slpin _ | .slpout | .ptlon _ | .noron _ | .invoff | .invon | .dispoff _ | .dispon => true
  | .caset _ _ | .raset _ _ | .ramwr _ | .ramrd _ | .madctl _ | .colmod _ => true
  | .frmctr1 _ | .frmctr2 _ | .frmctr3 _ | .invctr _ | .pwctr1 _ | .pwctr2 _ | .pwctr3 _ | .pwctr4 _ | .pwctr5 _ => true
  | .vmctr1 _ | .gmctrp1 _ | .gmctrn1 _ => true
  | .new _ _ | .init | .setOrientation _ | .setPixel _ _ _ | .draw _ => true
  | .setAddressWindow _ _ _ _ | .writeCommand _ _ | .startData | .writeWord _ | .hardReset | .delayMs _ => true

end Sys2Proof
end

