-- ==== Sys2Proof/Decode.lean ====
section
/-! DEFINITION. The opcode tables (rules R89, R101, R110), big-endian words (rule R50), the decoder of a wire transaction and, after
it, the encoder. The block itself never decodes (rule R91): the decoder reads the wire the way rules R62, R81 and R92 say the
receiver does, by the selector level. Host operations and micro-operations have no binary form (rule R93) and are not decoded. -/

namespace Sys2Proof

/-- `hi(v) = v >> 8 = v[15:8]` (rule R7). -/
def hi (v : Word) : Byte := (v >>> 8).setWidth 8

/-- `lo(v) = v & 0xFF = v[7:0]` (rule R7). -/
def lo (v : Word) : Byte := (v &&& 0x00FF).setWidth 8

/-- `be16(v) = [hi(v), lo(v)]` (rules R7, R50, R87). -/
def be16 (v : Word) : List Byte := [hi v, lo v]

/-- The word whose big-endian bytes are `h`, `l` (rule R50 read backwards). -/
def word (h l : Byte) : Word := (h.setWidth 16 <<< 8) ||| l.setWidth 16

/-- The open common values of the block's own generation (decision D13). -/
def Params.common (p : Params) : CommonOpcodes :=
  match p.gen with
  | .older => p.commonOlder
  | .newer => p.commonNewer

/-- A member of the older-only codes: of the older table where the configuration has it, of the newer one never (rules R126, R139). -/
def Params.older (p : Params) (b : Option Byte) : Option Byte :=
  match p.gen with
  | .older => b
  | .newer => none

/-- The block's opcode table (rules R33, R89, R111 to R139): `OPV(GEN, m)`, or `none` where the table does not hold `m`. -/
def opv (p : Params) (m : Mnemonic) : Option Byte :=
  match m with
  | .swreset => some 0x01
  | .slpout => some 0x11
  | .dispon => some 0x29
  | .caset => some 0x2A
  | .raset => some 0x2B
  | .ramwr => some 0x2C
  | .madctl => some 0x36
  | .colmod => some 0x3A
  | .slpin => some p.common.slpin
  | .ptlon => some p.common.ptlon
  | .noron => some p.common.noron
  | .invoff => some p.common.invoff
  | .invon => some p.common.invon
  | .dispoff => some p.common.dispoff
  | .ramrd => some p.common.ramrd
  | .frmctr1 => p.older p.olderOnly.frmctr1
  | .frmctr2 => p.older p.olderOnly.frmctr2
  | .frmctr3 => p.older p.olderOnly.frmctr3
  | .invctr => p.older p.olderOnly.invctr
  | .pwctr1 => p.older p.olderOnly.pwctr1
  | .pwctr2 => p.older p.olderOnly.pwctr2
  | .pwctr3 => p.older p.olderOnly.pwctr3
  | .pwctr4 => p.older p.olderOnly.pwctr4
  | .pwctr5 => p.older p.olderOnly.pwctr5
  | .vmctr1 => p.older p.olderOnly.vmctr1
  | .gmctrp1 => p.older p.olderOnly.gmctrp1
  | .gmctrn1 => p.older p.olderOnly.gmctrn1
  | .further k => p.older p.olderOnly.further[k]?

/-- Is `m` in the block's table. -/
def inTable (p : Params) (m : Mnemonic) : Bool := (opv p m).isSome

/-- `OPV(GEN, m)` as a byte. Meaningful where `inTable p m`: every use in the machine is behind that test. -/
def opByte (p : Params) (m : Mnemonic) : Byte := (opv p m).getD 0x00

/-- The opcodes that both tables hold, in the order of rule R89's table. -/
def commonMnemonics : List Mnemonic :=
  [.swreset, .slpin, .slpout, .ptlon, .noron, .invoff, .invon, .dispoff, .dispon,
   .caset, .raset, .ramwr, .ramrd, .madctl, .colmod]

/-- The names that an older table may hold besides: the twelve of spec/opcode_table.json and the further ones of the configuration. -/
def Params.olderMnemonics (p : Params) : List Mnemonic :=
  [.frmctr1, .frmctr2, .frmctr3, .invctr, .pwctr1, .pwctr2, .pwctr3, .pwctr4, .pwctr5, .vmctr1, .gmctrp1, .gmctrn1]
  ++ (List.range p.olderOnly.further.length).map .further

/-- The opcodes of the block's table. -/
def Params.table (p : Params) : List Mnemonic := (commonMnemonics ++ p.olderMnemonics).filter (inTable p)

/-- The opcodes the block issues (rule R89, last column, and the entries of its `CFG`). -/
def Params.issued (p : Params) : List Mnemonic :=
  [.swreset, .slpout, .invoff, .invon, .madctl, .colmod, .dispon, .caset, .raset, .ramwr]
  ++ (match p.gen with
      | .older => p.cfgOlder.map CfgEntry.mnemonic
      | .newer => (p.cfgNewer.getD []).map CfgEntry.mnemonic)

/-- Different opcodes of the list have different bytes. -/
def distinctOn (p : Params) (ms : List Mnemonic) : Bool :=
  ms.all fun m => ms.all fun n => m == n || opByte p m != opByte p n

/-- `CFG(GEN)` of the block's generation (rules R35, R175, R187); `none` where it is not supplied. -/
def Params.configuration (p : Params) : Option (List CfgEntry) :=
  match p.gen with
  | .older => some p.cfgOlder
  | .newer => p.cfgNewer

/-- Every mnemonic of the list is an opcode of the table (rule R177). -/
def admissible (p : Params) (l : List CfgEntry) : Bool := l.all fun e => inTable p e.mnemonic

/-- The opcodes after which step 4 of INIT would break a rule of its own or undo what INIT establishes: the three that owe a settle delay,
which no `CFG` entry has (rule R292, U6), and sleep-in (rules R112, R262, R282). -/
def unsettlingOpcodes : List Mnemonic := [.swreset, .slpin, .slpout, .dispon]

/-- The configuration check that rules R141 and R177 ask of a model: distinct issued opcodes, an admissible `CFG`. `Params.built` meets it, and
every claim on the panel requires it (`Params.calibrated`); the block's bytes are defined without it (rule R110). -/
def Params.wellFormed (p : Params) : Bool :=
  distinctOn p p.issued && (match p.configuration with | none => true | some l => admissible p l)

/-- Does INIT send the sequence that the panel requires, which is not the empty one: of "an instance with an empty or altered `CFG`"
nothing is claimed (rule R177), nor where an entry is one of `unsettlingOpcodes`, nor where the panel cannot tell the issued commands apart
(rule R141). DESIGN CHOICE, log entry 18. Environment model only. -/
def Params.calibrated (p : Params) : Bool :=
  p.wellFormed && p.configuration == some p.panelSequence && !p.panelSequence.isEmpty
    && p.panelSequence.all fun e => !unsettlingOpcodes.contains e.mnemonic

/-- `CFG(GEN_OLDER)` of the REF instance (rule R178). PRESUMED, log entry 21. -/
def refSequence : List CfgEntry :=
  [⟨.frmctr1, [0x01, 0x2C, 0x2D]⟩, ⟨.frmctr2, [0x01, 0x2C, 0x2D]⟩,
   ⟨.frmctr3, [0x01, 0x2C, 0x2D, 0x01, 0x2C, 0x2D]⟩, ⟨.invctr, [0x07]⟩,
   ⟨.pwctr1, [0xA2, 0x02, 0x84]⟩, ⟨.pwctr2, [0xC5]⟩, ⟨.pwctr3, [0x0A, 0x00]⟩,
   ⟨.pwctr4, [0x8A, 0x2A]⟩, ⟨.pwctr5, [0x8A, 0xEE]⟩, ⟨.vmctr1, [0x0E]⟩]

/-- The REF instance of rule R6 (rules R112 to R138, R178, R200, R183) with the delays and panel sizes given as arguments, because
the spec keeps them symbolic. PRESUMED, log entry 21: general knowledge recorded by the spec. Unsafe: a statement that rests on these values
is about REF only. Used by `decodeTableWord`, by tests, and by `refByte` (log entry 22). -/
def Params.ref (tSwreset tSlpout tDispon : Nat) (size : PanelSize) : Params where
  gen := .older
  commonOlder := ⟨0x10, 0x12, 0x13, 0x20, 0x21, 0x28, 0x2E⟩
  commonNewer := ⟨0x10, 0x12, 0x13, 0x20, 0x21, 0x28, 0x2E⟩
  olderOnly :=
    ⟨some 0xB1, some 0xB2, some 0xB3, some 0xB4, some 0xC0, some 0xC1, some 0xC2, some 0xC3, some 0xC4, some 0xC5, some 0xE0, some 0xE1, []⟩
  oriv := ⟨0x00, 0x60, 0xC0, 0xA0⟩
  madctlInitBase := 0x00
  colmodParam := 0x05
  cfgOlder := refSequence
  cfgNewer := none
  panelSequence := refSequence
  tSwreset := tSwreset
  tSlpout := tSlpout
  tDispon := tDispon
  sizes := ⟨size, size, size, size, size⟩

/-- An instance with the given opcode bytes: the spec's GEN_OLDER (decision D14, log entry 3), MADCTL_INIT_BASE = 0x00 (rule R6, decision
D12), no `CFG(GEN_NEWER)` (rule R187: "no default"), the twelve named codes and any number of further ones in the older table (log entry
28), and every other OPEN value a free value. `CFG(GEN_OLDER)` is admissible (rule R177): it is any list, less what is not in the table. -/
def Params.builtWith (common : CommonOpcodes) (byte : Mnemonic → Byte) (further : List Byte) : Params :=
  let p : Params :=
    { gen := .older
      commonOlder := common
      commonNewer := Config.commonNewer
      olderOnly :=
        { frmctr1 := some (byte .frmctr1)
          frmctr2 := some (byte .frmctr2)
          frmctr3 := some (byte .frmctr3)
          invctr := some (byte .invctr)
          pwctr1 := some (byte .pwctr1)
          pwctr2 := some (byte .pwctr2)
          pwctr3 := some (byte .pwctr3)
          pwctr4 := some (byte .pwctr4)
          pwctr5 := some (byte .pwctr5)
          vmctr1 := some (byte .vmctr1)
          gmctrp1 := some (byte .gmctrp1)
          gmctrn1 := some (byte .gmctrn1)
          further := further }
      oriv := Config.oriv
      madctlInitBase := 0x00
      colmodParam := Config.colmodParam
      cfgOlder := []
      cfgNewer := none
      panelSequence := Config.panelSequence
      tSwreset := Config.tSwreset
      tSlpout := Config.tSlpout
      tDispon := Config.tDispon
      sizes := Config.sizes }
  { p with cfgOlder := Config.cfgOlder.filter fun e => inTable p e.mnemonic }

/-- The REF instance's opcode bytes (log entry 21). -/
def refByte (m : Mnemonic) : Byte := opByte (Params.ref 0 0 0 ⟨0, 0⟩) m

/-- The parameters at `State.reset`: `Params.builtWith` any opcode bytes that pass the configuration check (rule R141, decision D9: "OPEN,
subject to distinctness"). They are free values; where those collide, and only there, the REF bytes stand in for them, so that exactly
the well-formed choices remain open (log entry 22). -/
def Params.built : Params :=
  let free := (Params.builtWith Config.commonOlder Config.olderByte Config.olderFurther).wellFormed
  Params.builtWith (if free then Config.commonOlder else (Params.ref 0 0 0 ⟨0, 0⟩).commonOlder)
    (fun m => if free then Config.olderByte m else refByte m) (if free then Config.olderFurther else [])

/-- The opcode whose byte is `b` in the block's table, if there is one. DESIGN CHOICE, log entry 25: where several opcodes of the table share
the byte, which rule R141 bars among the issued ones only, it is the first as `Params.table` lists them; the order means nothing (rule R101). -/
def mnemonicOf (p : Params) (b : Byte) : Option Mnemonic :=
  p.table.find? fun m => opByte p m == b

/-- Why a wire stream is no transaction of the table. -/
inductive DecodeError where
  /-- Nothing was sent. -/
  | noByte
  /-- The first byte was sent with the selector high: a parameter with no opcode (rule R62). -/
  | parameterWithoutOpcode
  /-- The first byte was sent before the selector was ever driven (rule R41). -/
  | selectorUndriven
  /-- The byte is no opcode of the table (rule R91). -/
  | unknownOpcode (b : Byte)
  /-- The command's format has another number of parameter bytes (rules R82 to R86). -/
  | wrongParameterCount (m : Mnemonic) (count : Nat)
  /-- The byte is a further older-only code of the configuration (rule R126): spec/opcode_table.json has no row for it, so it is no
  constructor of `Instr`; WRITE_COMMAND and `CFG` can send it. -/
  | furtherOpcode (k : Nat)
deriving DecidableEq, Repr

/-- The bytes sent with the selector high up to the next pair that is not (rule R92). -/
def parametersOf : List WirePair → List Byte
  | (.high, b) :: rest => b :: parametersOf rest
  | _ => []

/-- What follows the parameters (rule R92). -/
def afterParameters : List WirePair → List WirePair
  | (.high, _) :: rest => afterParameters rest
  | ws => ws

/-- A command with the parameters it was sent with, by its format (rules R82 to R86, R111 to R138). -/
def wireCommand (m : Mnemonic) (ps : List Byte) : Except DecodeError Instr :=
  match m, ps with
  | .swreset, [] => .ok .swreset
  | .slpout, [] => .ok .slpout
  | .invoff, [] => .ok .invoff
  | .invon, [] => .ok .invon
  | .dispon, [] => .ok .dispon
  | .caset, [a, b, c, d] => .ok (.caset (word a b) (word c d))
  | .raset, [a, b, c, d] => .ok (.raset (word a b) (word c d))
  | .ramwr, [a, b] => .ok (.ramwr (word a b))
  | .madctl, [a] => .ok (.madctl a)
  | .colmod, [a] => .ok (.colmod a)
  | .slpin, ps => .ok (.slpin ps)
  | .ptlon, ps => .ok (.ptlon ps)
  | .noron, ps => .ok (.noron ps)
  | .dispoff, ps => .ok (.dispoff ps)
  | .ramrd, ps => .ok (.ramrd ps)
  | .frmctr1, ps => .ok (.frmctr1 ps)
  | .frmctr2, ps => .ok (.frmctr2 ps)
  | .frmctr3, ps => .ok (.frmctr3 ps)
  | .invctr, ps => .ok (.invctr ps)
  | .pwctr1, ps => .ok (.pwctr1 ps)
  | .pwctr2, ps => .ok (.pwctr2 ps)
  | .pwctr3, ps => .ok (.pwctr3 ps)
  | .pwctr4, ps => .ok (.pwctr4 ps)
  | .pwctr5, ps => .ok (.pwctr5 ps)
  | .vmctr1, ps => .ok (.vmctr1 ps)
  | .gmctrp1, ps => .ok (.gmctrp1 ps)
  | .gmctrn1, ps => .ok (.gmctrn1 ps)
  | .further k, _ => .error (.furtherOpcode k)
  | .swreset, ps | .slpout, ps | .invoff, ps | .invon, ps | .dispon, ps => .error (.wrongParameterCount m ps.length)
  | .caset, ps | .raset, ps | .ramwr, ps | .madctl, ps | .colmod, ps => .error (.wrongParameterCount m ps.length)

/-- One transaction from the front of a wire stream, with the rest of the stream (rules R62, R81, R92). Total. -/
def decode (p : Params) : List WirePair → Except DecodeError (Instr × List WirePair)
  | [] => .error .noByte
  | (.high, _) :: _ => .error .parameterWithoutOpcode
  | (.undriven, _) :: _ => .error .selectorUndriven
  | (.low, b) :: rest =>
    match mnemonicOf p b with
    | none => .error (.unknownOpcode b)
    | some m =>
      match wireCommand m (parametersOf rest) with
      | .error e => .error e
      | .ok i => .ok (i, afterParameters rest)

/-- The opcode and the parameter bytes of a wire command, by its format (rules R82 to R86); `none` for the instructions that have
no binary form (rule R93). -/
def Instr.wireForm : Instr → Option (Mnemonic × List Byte)
  | .swreset => some (.swreset, [])
  | .slpin ps => some (.slpin, ps)
  | .slpout => some (.slpout, [])
  | .ptlon ps => some (.ptlon, ps)
  | .noron ps => some (.noron, ps)
  | .invoff => some (.invoff, [])
  | .invon => some (.invon, [])
  | .dispoff ps => some (.dispoff, ps)
  | .dispon => some (.dispon, [])
  | .caset s e => some (.caset, be16 s ++ be16 e)
  | .raset s e => some (.raset, be16 s ++ be16 e)
  | .ramwr c => some (.ramwr, be16 c)
  | .ramrd ps => some (.ramrd, ps)
  | .madctl q => some (.madctl, [q])
  | .colmod q => some (.colmod, [q])
  | .frmctr1 ps => some (.frmctr1, ps)
  | .frmctr2 ps => some (.frmctr2, ps)
  | .frmctr3 ps => some (.frmctr3, ps)
  | .invctr ps => some (.invctr, ps)
  | .pwctr1 ps => some (.pwctr1, ps)
  | .pwctr2 ps => some (.pwctr2, ps)
  | .pwctr3 ps => some (.pwctr3, ps)
  | .pwctr4 ps => some (.pwctr4, ps)
  | .pwctr5 ps => some (.pwctr5, ps)
  | .vmctr1 ps => some (.vmctr1, ps)
  | .gmctrp1 ps => some (.gmctrp1, ps)
  | .gmctrn1 ps => some (.gmctrn1, ps)
  | .new _ _ | .init | .setOrientation _ | .setPixel _ _ _ | .draw _ => none
  | .setAddressWindow _ _ _ _ | .writeCommand _ _ | .startData | .writeData _ | .writeWord _ | .hardReset | .delayMs _ => none

/-- The wire pairs of a wire command: the opcode with the selector low, then each parameter with the selector high (rule R81);
`none` where the instruction has no binary form or its opcode is not in the block's table. -/
def encode (p : Params) (i : Instr) : Option (List WirePair) :=
  match i.wireForm with
  | none => none
  | some (m, ps) =>
    if inTable p m then some ((.low, opByte p m) :: ps.map (fun b => (.high, b))) else none

/-- Byte `k` of an opcode-table word: bits `8k+7 .. 8k` (the first byte is the least significant). -/
def tableByte (w k : Nat) : Byte := BitVec.ofNat 8 (w / 256 ^ k)

/-- The parameter bytes the format fixes (rules R82 to R86): the table gives them no bits, so they read as zeros. -/
def fixedParameters : Mnemonic → Nat
  | .caset | .raset => 4
  | .ramwr => 2
  | .madctl | .colmod => 1
  | .swreset | .slpin | .slpout | .ptlon | .noron | .invoff | .invon | .dispoff | .dispon | .ramrd => 0
  | .frmctr1 | .frmctr2 | .frmctr3 | .invctr | .pwctr1 | .pwctr2 | .pwctr3 | .pwctr4 | .pwctr5 => 0
  | .vmctr1 | .gmctrp1 | .gmctrn1 | .further _ => 0

/-- The wire pairs of a table word of `nbits` bits: the opcode byte with the selector low, then the further bytes of the word with
the selector high, continued by zeros to the format's length. -/
def tablePairs (p : Params) (nbits w : Nat) : List WirePair :=
  if nbits < 8 then [] else
    let op := tableByte w 0
    let given := nbits / 8 - 1
    let need := match mnemonicOf p op with
      | none => 0
      | some m => fixedParameters m
    (.low, op) :: (List.range (max given need)).map (fun k => (.high, if k < given then tableByte w (k + 1) else 0x00))

/-- The instruction the decoder reads from a word of spec/opcode_table.json, whose opcode bytes are those of the REF instance
(log entry 21). -/
def decodeTableWord (nbits w : Nat) : Option Instr :=
  match decode (Params.ref 0 0 0 ⟨0, 0⟩) (tablePairs (Params.ref 0 0 0 ⟨0, 0⟩) nbits w) with
  | .ok (i, _) => some i
  | .error _ => none

end Sys2Proof
end

