-- ==== Sys2Proof/Machine/State.lean ====
section
/-! DEFINITION. The state of the block (rules R20 to R45) as plain data, the reasons a step can stop, and the state after reset. -/

namespace Sys2Proof.Machine

open Sys2Proof

/-- The control register (rules R23 to R25), written by NEW only. -/
structure Cfg where
  /-- `cfg.rgb`: true = RGB colour order, false = BGR (rule R24). -/
  rgb : Bool
  /-- `cfg.inv`: true = inverted polarity (rule R25). -/
  inv : Bool
deriving DecidableEq, Repr

/-- A micro-event of an expansion (rules R22, R150). Levels are Bool: false = 0 = low, true = 1 = high. -/
inductive Micro where
  | rstSet (b : Bool)
  | dcSet (b : Bool)
  | tx (bytes : List Byte)
  | delay (n : Nat)
deriving DecidableEq, Repr

/-- The answer to a host operation, and the bus's final answer to a transmission (rules R9, R93). -/
inductive Result where
  | ok
  | err (e : TransportError)
deriving DecidableEq, Repr

/-- The event alphabet of rule R9. -/
inductive Event where
  | rst (b : Bool)
  | dc (b : Bool)
  | tx (bytes : List Byte) (answer : Result)
  | delay (n : Nat)
  | ret (r : Result)
deriving DecidableEq, Repr

/-- What is in progress (rule R21). The first three are the spec's host operations; the others are the instructions of the other two
layers run on their own, which have no `RET` (log entry 12). -/
inductive Operation where
  | init
  | setOrientation
  | setPixel
  /-- SET_ADDRESS_WINDOW. -/
  | setAddressWindow
  /-- SWRESET with its settle delay. -/
  | softwareReset
  /-- SLPOUT with its settle delay. -/
  | sleepOut
  /-- DISPON with its settle delay. -/
  | displayOn
  /-- CASET. -/
  | setColumns (first last : Word)
  /-- RASET. -/
  | setRows (first last : Word)
  /-- RAMWR. -/
  | writePixel (color : Word)
  /-- WRITE_COMMAND, and every wire command that is one WRITE_COMMAND. -/
  | command (m : Mnemonic) (ps : List Byte)
  /-- START_DATA. -/
  | startData
  /-- WRITE_DATA and WRITE_WORD. -/
  | writeData (bytes : List Byte)
  /-- HARD_RESET. -/
  | hardReset
  /-- DELAY_MS. -/
  | delayMs (n : Nat)
deriving DecidableEq, Repr

/-- The operand latches (rules R28 to R30), written at acceptance. -/
structure Latches where
  x : Word
  y : Word
  color : Word
  ori : Orientation
  x0 : Word
  y0 : Word
  x1 : Word
  y1 : Word
deriving DecidableEq, Repr

/-- Ghost `panel_cfg` (rule R40). -/
inductive PanelCfg where
  | never
  | ok
  | unknown
deriving DecidableEq, Repr

/-- The coordinate frame the panel is in: the one INIT leaves, or the one of an orientation (rules R66, R67). -/
inductive Frame where
  | atInit
  | oriented (o : Orientation)
deriving DecidableEq, Repr

/-- One range of the addressing window, both ends inclusive (rules R53, R210). -/
structure Span where
  first : Word
  last : Word
deriving DecidableEq, Repr

/-- The known cells of the panel's frame memory (rules R59, R66): (key, colour) in strictly rising key order, the key being
column * 65536 + row. Of a location that is not listed nothing is known. -/
abbrev FrameMem := List (Nat × Word)

/-- What is known of the panel (rules R37, R38, R40, R60, R66, R262, R282): ghost, read by no step of the block. `none`
and an unlisted cell mean "nothing is known", never a value. Log entries 18, 19. Safe. -/
structure Panel where
  cfg : PanelCfg
  /-- A standing premise of every claim beside `cfg`: the last INIT sent the sequence this panel requires (rule R177), with no entry that owes a
  settle delay (rule R292). Log entry 18. -/
  calibrated : Bool
  /-- A standing premise of a claim on a cell: two colour bytes are one cell, because no COLMOD has selected another format than
  `COLMOD_PARAM` does since (rule R183). -/
  wordCells : Bool
  /-- The coordinate frame, if known. -/
  frame : Option Frame
  /-- The memory-access-control register (rule R37), if known. -/
  madctl : Option Byte
  /-- The column range of the retained window (rules R38, R60, R120), if known. -/
  columns : Option Span
  /-- Its row range (rules R38, R60, R121), if known. -/
  rows : Option Span
  /-- The colour polarity, true = inverted (rules R116, R117, R282), if known. -/
  polarity : Option Bool
  /-- The byte that selects the pixel format (rules R65, R125, R282), if known. -/
  pixelFormat : Option Byte
  /-- Has the panel left sleep (rules R113, R262, R282), if known; false = asleep after a software reset (rule R262). -/
  awake : Option Bool
  /-- Is the display on (rules R119, R262, R282), if known. -/
  displayOn : Option Bool
  /-- The settings written by INIT step 4, opaque (rules R35, R282, U8), if known. -/
  settings : Option (List CfgEntry)
  /-- The frame memory (rule R66), as far as known. -/
  fm : FrameMem
deriving DecidableEq, Repr

/-- The state of the block (rule R20) with the parameters of rule R6, the ghosts of rules R40, R66, R243, and the environment's
plain data: the host's requests and the collaborators' answers. -/
structure State where
  /-- The build parameters and constant tables (rules R6, R33 to R35, R71); no step writes them. Log entry 2. -/
  params : Params
  /-- The control register (rule R23). -/
  cfg : Cfg
  /-- The selector level last driven (rule R26). -/
  dc : Level
  /-- The reset level last driven (rule R27). -/
  rst : Level
  /-- An operation is in progress (rule R21). -/
  busy : Bool
  /-- Which (rule R21); meaningful while `busy`. -/
  op : Operation
  /-- The micro-program counter (rule R22); meaningful while `busy`. -/
  upc : Nat
  /-- The expansion that `upc` indexes (rule R22); meaningful while `busy`. -/
  mprog : List Micro
  /-- The operand latches (rules R28 to R30); meaningful while `busy`. -/
  latch : Latches
  /-- The drawing adapter's position: the pixels not yet forwarded (rule R230); `none` when no DRAW runs. -/
  drawing : Option (List Pixel)
  /-- Ghost: everything done at the panel-side interfaces since construction (rule R40). -/
  trace : List Event
  /-- Ghost: the bytes that reached the panel, each with its selector level (rules R62, R243). -/
  received : List WirePair
  /-- Ghost: what is known of the panel. -/
  panel : Panel
  /-- Environment: the requests the host has still to issue, the one it presents first (rules R251, R286). -/
  requests : List Instr
  /-- Environment: the answers the bus is known to give next (rule R255). -/
  replies : List BusReply
  /-- Environment: what the delay service is known to say next (rules R257, R258). -/
  timer : List DelayReply
  /-- The model's own counter of free values drawn. Log entries 7, 8, 27. -/
  draws : Nat
deriving DecidableEq, Repr

/-- The block has no fault of its own (rules R263, R264): a transmission failure is the answer `RET(Err e)` and a next state. No
constructor, so no step answers a fault. -/
inductive Fault where
deriving DecidableEq, Repr

/-- Why a request has no step. -/
inductive Refusal where
  /-- Raised by an arm of `exec` for an instruction with no meaning yet. Safe. -/
  | notModelled (mnemonic : String)
  /-- Raised by every request that would start while an operation is in progress: "a request while `busy` has no step" (rule R252,
  U11). `step` never raises it: it holds the request. Safe. -/
  | requestWhileBusy
  /-- Raised by a wire command, or WRITE_COMMAND, whose opcode is not in the block's table: "it cannot send an opcode that is not
  in its table" (rule R91). Safe. -/
  | opcodeNotInTable (m : Mnemonic)
  /-- Raised by WRITE_DATA of the empty list, which is not an instruction of rule R153 ("non-empty list of bytes"). Safe. -/
  | emptyTransmission
  /-- Raised by INIT on GEN_NEWER where no `CFG(GEN_NEWER)` is supplied: "must refuse INIT" (rule R187). Safe. -/
  | noConfiguration
  /-- Raised by INIT where `CFG` names an opcode outside the table (rules R177, R264). Safe. -/
  | configurationNotAdmissible
deriving DecidableEq, Repr

/-- The latches after reset: "don't care" in rule R41. DESIGN CHOICE, log entry 5. Unsafe for a claim that reads an idle latch. -/
def Latches.reset : Latches := ⟨0, 0, 0, .normal, 0, 0, 0, 0⟩

/-- A panel of which nothing is known but the ghost `panel_cfg`. -/
def Panel.blank (c : PanelCfg) : Panel where
  cfg := c
  calibrated := false
  wordCells := false
  frame := none
  madctl := none
  columns := none
  rows := none
  polarity := none
  pixelFormat := none
  awake := none
  displayOn := none
  settings := none
  fm := []

/-- The panel after construction: "an undefined power-on state" (rule R41). -/
def Panel.reset : Panel := Panel.blank .never

/-- The state right after reset, which is construction by NEW with the two flag straps (rules R41, R280). -/
def State.reset : State where
  params := Params.built
  cfg := ⟨Config.strapRgb, Config.strapInv⟩
  dc := .undriven
  rst := .undriven
  busy := false
  op := .init
  upc := 0
  mprog := []
  latch := Latches.reset
  drawing := none
  trace := []
  received := []
  panel := Panel.reset
  requests := []
  replies := []
  timer := []
  draws := 0

end Sys2Proof.Machine
end

