-- ==== Sys2Proof/Machine/Flags.lean ====
section
/-! DEFINITION. What the two configuration flags select. The block has no status register and no condition code (rule R31). -/

namespace Sys2Proof.Machine

open Sys2Proof

/-- `BGR_BIT` (rule R6, fixed). -/
def bgrBit : Byte := 0x08

/-- The colour-order bit of the memory-access-control parameter: added for BGR, not for RGB (rules R24, R88). -/
def colourOrderBits (c : Cfg) : Byte := if c.rgb then 0x00 else bgrBit

/-- The polarity command of INIT step 5 (rules R25, R181). -/
def polarityCommand (c : Cfg) : Mnemonic := if c.inv then .invon else .invoff

end Sys2Proof.Machine
end

