-- ==== Sys2Proof/Machine/Operands.lean ====
section
/-! DEFINITION. Operand assembly (rules R87, R88) and the expansions of the micro-operations into micro-events (rules R150 to R157,
R212), from which every other expansion is built. -/

namespace Sys2Proof.Machine

open Sys2Proof

/-- `ORIV(o)` (rules R34, R200). -/
def oriv (p : Params) (o : Orientation) : Byte :=
  match o with
  | .normal => p.oriv.normal
  | .rotated => p.oriv.rotated
  | .mirroredA => p.oriv.mirroredA
  | .mirroredB => p.oriv.mirroredB

/-- The memory-access-control parameter over `base` (rule R88). -/
def madctlParam (c : Cfg) (base : Byte) : Byte := base ||| colourOrderBits c

/-- The parameter of INIT step 6 (rule R182). -/
def initMadctl (p : Params) (c : Cfg) : Byte := madctlParam c p.madctlInitBase

/-- The parameter of SET_ORIENTATION(o) (rules R201, R202). -/
def orientationMadctl (p : Params) (c : Cfg) (o : Orientation) : Byte := madctlParam c (oriv p o)

/-- WRITE_COMMAND(m, ps): the selector goes high only where there are parameters (rule R151, decision D4). -/
def writeCommand (p : Params) (m : Mnemonic) (ps : List Byte) : List Micro :=
  [.dcSet false, .tx [opByte p m]] ++ (if ps.isEmpty then [] else [.dcSet true, .tx ps])

/-- START_DATA (rule R152). -/
def startData : List Micro := [.dcSet true]

/-- WRITE_DATA(bytes) (rule R153). -/
def writeData (bytes : List Byte) : List Micro := [.tx bytes]

/-- WRITE_WORD(v): one transmission of two bytes, high byte first (rule R154). -/
def writeWord (v : Word) : List Micro := writeData (be16 v)

/-- HARD_RESET (rule R156). -/
def hardReset : List Micro := [.rstSet true, .rstSet false, .rstSet true]

/-- DELAY_MS(n) (rule R157). -/
def delayMs (n : Nat) : List Micro := [.delay n]

/-- A command whose data phase is two words, format WA (rules R85, R120, R121). -/
def writeRange (p : Params) (m : Mnemonic) (s e : Word) : List Micro :=
  writeCommand p m [] ++ startData ++ writeWord s ++ writeWord e

/-- A memory write of one pixel, format WP (rules R86, R122). -/
def writePixelData (p : Params) (c : Word) : List Micro :=
  writeCommand p .ramwr [] ++ startData ++ writeWord c

/-- SET_ADDRESS_WINDOW(x0, y0, x1, y1): columns first, then rows (rule R212). -/
def addressWindow (p : Params) (x0 y0 x1 y1 : Word) : List Micro :=
  writeRange p .caset x0 x1 ++ writeRange p .raset y0 y1

/-- SWRESET with its settle delay (rules R111, R173). -/
def softwareReset (p : Params) : List Micro := writeCommand p .swreset [] ++ delayMs p.tSwreset

/-- SLPOUT with its settle delay (rules R113, R174). -/
def sleepOut (p : Params) : List Micro := writeCommand p .slpout [] ++ delayMs p.tSlpout

/-- DISPON with its settle delay (rules R119, R184). -/
def displayOn (p : Params) : List Micro := writeCommand p .dispon [] ++ delayMs p.tDispon

/-- INIT step 4: each entry in list order (rules R175, R299). -/
def configure (p : Params) (l : List CfgEntry) : List Micro :=
  l.flatMap fun e => writeCommand p e.mnemonic e.params

/-- The micro-program of INIT (rule R179); `l` is `CFG(GEN)`. -/
def initProgram (p : Params) (c : Cfg) (l : List CfgEntry) : List Micro :=
  hardReset
  ++ softwareReset p
  ++ sleepOut p
  ++ configure p l
  ++ writeCommand p (polarityCommand c) []
  ++ writeCommand p .madctl [initMadctl p c]
  ++ writeCommand p .colmod [p.colmodParam]
  ++ displayOn p

/-- The micro-program of SET_ORIENTATION(o) (rule R201): one write, not two (rule R203). -/
def orientationProgram (p : Params) (c : Cfg) (o : Orientation) : List Micro :=
  writeCommand p .madctl [orientationMadctl p c o]

/-- The micro-program of SET_PIXEL(x, y, color) (rule R215). -/
def pixelProgram (p : Params) (x y color : Word) : List Micro :=
  addressWindow p x y x y ++ writePixelData p color

/-- The expansion of an operation (rule R22): "a pure function of the operation, its operands, `cfg` and the parameters". -/
def expansion (p : Params) (c : Cfg) (l : Latches) (op : Operation) : List Micro :=
  match op with
  | .init => initProgram p c (p.configuration.getD [])
  | .setOrientation => orientationProgram p c l.ori
  | .setPixel => pixelProgram p l.x l.y l.color
  | .setAddressWindow => addressWindow p l.x0 l.y0 l.x1 l.y1
  | .softwareReset => softwareReset p
  | .sleepOut => sleepOut p
  | .displayOn => displayOn p
  | .setColumns s e => writeRange p .caset s e
  | .setRows s e => writeRange p .raset s e
  | .writePixel color => writePixelData p color
  | .command m ps => writeCommand p m ps
  | .startData => startData
  | .writeData bytes => writeData bytes
  | .hardReset => hardReset
  | .delayMs n => delayMs n

end Sys2Proof.Machine
end

