-- ==== Sys2Proof/Machine/Panel.lean ====
section
/-! DEFINITION. The environment model of the panel (rules R37, R38, R40, R60 to R66), ghost: what is known of it at each return of an
operation, and while INIT brings the panel up. Wherever the source gives no effect, the model forgets ("no value, no unchanged"). -/

namespace Sys2Proof.Machine

open Sys2Proof

/-- The key of location (column, row) (rule R59). -/
def cellKey (x y : Word) : Nat := x.toNat * 65536 + y.toNat

/-- What is known of the cell with key `k`. -/
def FrameMem.read (m : FrameMem) (k : Nat) : Option Word :=
  match m with
  | [] => none
  | (k', v) :: rest => if k = k' then some v else FrameMem.read rest k

/-- `FM[k] <- v`, keeping the keys strictly rising. -/
def FrameMem.write (m : FrameMem) (k : Nat) (v : Word) : FrameMem :=
  match m with
  | [] => [(k, v)]
  | (k', v') :: rest =>
    if k < k' then (k, v) :: (k', v') :: rest
    else if k = k' then (k, v) :: rest
    else (k', v') :: FrameMem.write rest k v

/-- Every key of `m` is above `k`. -/
def FrameMem.above (k : Nat) (m : FrameMem) : Bool := m.all fun c => k < c.1

/-- The canonical form: keys strictly rising. -/
def FrameMem.wf : FrameMem → Bool
  | [] => true
  | (k, _) :: rest => FrameMem.above k rest && FrameMem.wf rest

/-- The panel's size in a frame (rules R59, R66). -/
def frameSize (p : Params) (f : Frame) : PanelSize :=
  match f with
  | .atInit => p.sizes.atInit
  | .oriented .normal => p.sizes.normal
  | .oriented .rotated => p.sizes.rotated
  | .oriented .mirroredA => p.sizes.mirroredA
  | .oriented .mirroredB => p.sizes.mirroredB

/-- Premise (b) of rule R66: the location is inside the panel in the coordinate frame it is in. -/
def inFrame (p : Params) (f : Option Frame) (x y : Word) : Bool :=
  match f with
  | none => false
  | some f => x.toNat < (frameSize p f).width && y.toNat < (frameSize p f).height

/-- After a host operation that returned `Err`: nothing is known (rules R40, R66, R247; U3). -/
def Panel.lost : Panel := Panel.blank .unknown

/-- After something was sent, or the panel was reset, in a way whose effect the source does not give: nothing is known (log entry
18). -/
def Panel.disturbed (q : Panel) : Panel :=
  Panel.blank (match q.cfg with | .never => .never | .ok => .unknown | .unknown => .unknown)

/-- The premises that every claim on the panel takes (rules R66 (a), R177, R247, R291): an INIT has returned `Ok` with nothing since
that makes the panel unknown, and it sent the sequence the panel requires. -/
def Panel.standing (q : Panel) : Bool := q.cfg == .ok && q.calibrated

/-- `r` where the panel stands under its premises, otherwise nothing. -/
def Panel.claim (q r : Panel) : Panel := if q.standing then r else Panel.blank q.cfg

/-- The coordinate frame after INIT: where INIT step 6 sends the byte that SET_ORIENTATION(NORMAL) sends, the panel is in the NORMAL
orientation (rule R203). -/
def initFrame (p : Params) : Frame := if p.oriv.normal = p.madctlInitBase then .oriented .normal else .atInit

/-- After an INIT that returned `Ok` (rules R189, R282); of a panel that requires another sequence, or one that cannot go out without a settle
delay, nothing is claimed (rules R177, R292; `Params.calibrated`). The window and the frame memory are not stated. -/
def Panel.initialised (p : Params) (c : Cfg) : Panel :=
  if p.calibrated then
    { cfg := .ok
      calibrated := true
      wordCells := true
      frame := some (initFrame p)
      madctl := some (initMadctl p c)
      columns := none
      rows := none
      polarity := some c.inv
      pixelFormat := some p.colmodParam
      awake := some true
      displayOn := some true
      settings := p.configuration
      fm := [] }
  else Panel.blank .ok

/-- While INIT is in progress, `n` of its micro-events performed: the reset pulse has unsettled everything known before (rule R281), and
from the software reset (event 5) until sleep-out is sent (event 8) the panel is asleep (rule R262). That too is claimed under the premises
only: `panel_cfg` is ok, so it is an INIT after one that returned `Ok` with no `Err` since (rules R285, R291, U1, U3), and `CFG` is the
sequence that the panel requires (rule R177). DESIGN CHOICE, log entry 27: while the bus has not answered the sleep-out byte (event 8), no part
of it has reached the panel. -/
def Panel.broughtUp (q : Panel) (p : Params) (n : Nat) : Panel :=
  { Panel.blank q.cfg with awake := if q.cfg = .ok ∧ p.calibrated = true ∧ 5 ≤ n ∧ n < 8 then some false else none }

/-- After a SET_ORIENTATION(o) that returned `Ok`: the register holds the byte sent (rule R37); coordinates now name locations of
another frame (rule R67) and the retained window's fate is not in the source (rule R204), so both are forgotten. DESIGN CHOICE, log entry 18:
what is known of the polarity, the pixel format (`wordCells` with it), sleep, display and settings stays, which no rule says. -/
def Panel.oriented (q : Panel) (p : Params) (c : Cfg) (o : Orientation) : Panel :=
  q.claim { q with
    frame := some (.oriented o), madctl := some (orientationMadctl p c o), columns := none, rows := none, fm := [] }

/-- After coordinates outside the panel, or a window that is inverted or that no pixel fills exactly: the source gives the panel's
reaction no meaning (U4, U10, rule R264: "Never a value"), so no register, range or cell is known. DESIGN CHOICE, log entry 18: the
standing premises and the coordinate frame are kept, because rule R66 claims the next pixel inside the panel under premises (a) to
(c) alone. -/
def Panel.obscured (q : Panel) : Panel :=
  { Panel.blank q.cfg with calibrated := q.calibrated, wordCells := q.wordCells, frame := q.frame }

/-- A column range as far as the source gives it a meaning: not inverted, and inside the panel (U4). -/
def columnSpan (p : Params) (f : Option Frame) (a b : Word) : Option Span :=
  match f with
  | none => none
  | some f => if a.toNat ≤ b.toNat ∧ b.toNat < (frameSize p f).width then some ⟨a, b⟩ else none

/-- A row range as far as the source gives it a meaning (U4). -/
def rowSpan (p : Params) (f : Option Frame) (a b : Word) : Option Span :=
  match f with
  | none => none
  | some f => if a.toNat ≤ b.toNat ∧ b.toNat < (frameSize p f).height then some ⟨a, b⟩ else none

/-- After a SET_PIXEL that returned `Ok` with these latches (rules R38, R66). DESIGN CHOICE, log entry 18: the registers known stay as they
were, which no rule says; outside the panel (rules R37, R54,
R296), and in a pixel format in which two colour bytes may be more or fewer than the window of one pixel holds (rules R65, R183, U10),
everything but the premises and the frame is forgotten. -/
def Panel.pixelWritten (q : Panel) (p : Params) (l : Latches) : Panel :=
  q.claim
    (if q.wordCells && inFrame p q.frame l.x l.y then
      { q with columns := some ⟨l.x, l.x⟩, rows := some ⟨l.y, l.y⟩, fm := q.fm.write (cellKey l.x l.y) l.color }
    else q.obscured)

/-- After the two window commands: the window is retained (rule R60). DESIGN CHOICE, log entry 18: the registers known
stay as they were, which no rule says; of the frame memory the source says nothing here, so it is forgotten; and of a window that is inverted or outside the panel (rules R37, R54, R296, U4) nothing is known but the premises
and the frame. -/
def Panel.windowSet (q : Panel) (p : Params) (x0 y0 x1 y1 : Word) : Panel :=
  q.claim
    (match columnSpan p q.frame x0 x1, rowSpan p q.frame y0 y1 with
      | some c, some r => { q with columns := some c, rows := some r, fm := [] }
      | _, _ => q.obscured)

/-- After CASET (rule R120). DESIGN CHOICE, log entry 18: the other registers stay, as after `Panel.windowSet`. -/
def Panel.columnsSet (q : Panel) (p : Params) (first last : Word) : Panel :=
  q.claim
    (match columnSpan p q.frame first last with
      | some c => { q with columns := some c, fm := [] }
      | none => q.obscured)

/-- After RASET (rule R121). DESIGN CHOICE, log entry 18: the other registers stay, as after `Panel.windowSet`. -/
def Panel.rowsSet (q : Panel) (p : Params) (first last : Word) : Panel :=
  q.claim
    (match rowSpan p q.frame first last with
      | some r => { q with rows := some r, fm := [] }
      | none => q.obscured)

/-- Is the retained window known to be one pixel? -/
def Panel.onePixelWindow (q : Panel) : Bool :=
  match q.columns, q.rows with
  | some c, some r => c.first == c.last && r.first == r.last
  | _, _ => false

/-- After RAMWR with one pixel (rule R122): what two colour bytes do to a window of another size, or in another pixel format, is not in the
source (U10, rules R65, R183). Of the frame memory rule R66 speaks for SET_PIXEL only, so it is forgotten, and the registers known stay. DESIGN
CHOICE, log entry 18. -/
def Panel.pixelStreamed (q : Panel) : Panel :=
  q.claim (if q.wordCells && q.onePixelWindow then { q with fm := [] } else q.obscured)

/-- After SWRESET with its settle delay: the panel is reset, which the source gives no register value of (rule R281), and, where it stands
under its premises, asleep (rule R262): the premise of that claim is `panel_cfg` before the command (rule R291). DESIGN CHOICE, log entry 18:
`panel_cfg` is no longer ok, whether or not it stands. -/
def Panel.softReset (q : Panel) : Panel := { q.disturbed with awake := if q.standing then some false else none }

/-- After SLPOUT with its settle delay (rule R113). DESIGN CHOICE, log entry 18: the other registers stay. -/
def Panel.sleepLeft (q : Panel) : Panel := q.claim { q with awake := some true, fm := [] }

/-- After DISPON with its settle delay (rule R119). DESIGN CHOICE, log entry 18: the other registers stay. -/
def Panel.turnedOn (q : Panel) : Panel := q.claim { q with displayOn := some true, fm := [] }

/-- After a WRITE_COMMAND that completed: the panel effect its opcode's rule gives (rules R116, R117, R120 to R122, R124, R125); where the
rule gives none, the parameters are not of its format, or the panel owes a settle delay (U6), nothing is known. DESIGN CHOICE, log entry 18: the
registers that the rule does not name stay, and the frame memory, of which the source says nothing here, is forgotten; after COLMOD with
another byte than `COLMOD_PARAM` two colour bytes are no known cell (rules R65, R183). -/
def Panel.commanded (q : Panel) (p : Params) (m : Mnemonic) (ps : List Byte) : Panel :=
  match m, ps with
  | .invoff, [] => q.claim { q with polarity := some false, fm := [] }
  | .invon, [] => q.claim { q with polarity := some true, fm := [] }
  | .caset, [a, b, c, d] => q.columnsSet p (word a b) (word c d)
  | .raset, [a, b, c, d] => q.rowsSet p (word a b) (word c d)
  | .ramwr, [_, _] => q.pixelStreamed
  | .madctl, [b] => q.claim { q with frame := none, madctl := some b, columns := none, rows := none, fm := [] }
  | .colmod, [b] => q.claim { q with pixelFormat := some b, wordCells := b == p.colmodParam, fm := [] }
  | _, _ => q.disturbed

/-- The panel after the operation `op` performed all its micro-events. The panel samples the selector only while a byte moves (rule
R62), so an operation that sends nothing and does not reset it leaves it alone. -/
def Panel.afterOk (op : Operation) (p : Params) (c : Cfg) (l : Latches) (q : Panel) : Panel :=
  match op with
  | .init => Panel.initialised p c
  | .setOrientation => q.oriented p c l.ori
  | .setPixel => q.pixelWritten p l
  | .setAddressWindow => q.windowSet p l.x0 l.y0 l.x1 l.y1
  | .softwareReset => q.softReset
  | .sleepOut => q.sleepLeft
  | .displayOn => q.turnedOn
  | .setColumns a b => q.columnsSet p a b
  | .setRows a b => q.rowsSet p a b
  | .writePixel _ => q.pixelStreamed
  | .command m ps => q.commanded p m ps
  | .startData | .delayMs _ => q
  | .writeData _ | .hardReset => q.disturbed

/-- The panel after the operation `op` failed. -/
def Panel.afterErr (op : Operation) (q : Panel) : Panel :=
  match op with
  | .init | .setOrientation | .setPixel => Panel.lost
  | .setAddressWindow | .softwareReset | .sleepOut | .displayOn | .setColumns _ _ | .setRows _ _ | .writePixel _ => q.disturbed
  | .command _ _ | .startData | .writeData _ | .hardReset | .delayMs _ => q.disturbed

end Sys2Proof.Machine
end

