-- ==== Sys2Proof/Machine/Ops.lean ====
section
/-! DEFINITION. The named operations over the state: driving a line, transmitting, waiting (rule R8); performing a micro-program
(rule R22); taking the one exception and returning to the host (rules R242, R246); accepting a request (rules R21, R28 to R30). -/

namespace Sys2Proof.Machine

open Sys2Proof

/-- The line level of a drive: 0 = low, 1 = high (rule R8). -/
def level (b : Bool) : Level := if b then .high else .low

/-- `dc <- b`, without its event. -/
def State.setDc (s : State) (b : Bool) : State := { s with dc := level b }

/-- `rst <- b`, without its event. -/
def State.setRst (s : State) (b : Bool) : State := { s with rst := level b }

/-- Append an event to the trace (rule R40). -/
def State.record (s : State) (e : Event) : State := { s with trace := s.trace ++ [e] }

/-- `upc <- upc + 1` (rule R22). Ghost: what an INIT in progress does to what is known of the panel. -/
def State.advance (s : State) : State :=
  { s with upc := s.upc + 1, panel := if s.op = .init then s.panel.broughtUp s.params (s.upc + 1) else s.panel }

/-- What the bus says next: the first listed answer, else a free value (rule R255). -/
def State.nextReply (s : State) : BusReply :=
  match s.replies with
  | r :: _ => r
  | [] => Config.busReply s.draws

/-- The bus's next word has been used. -/
def State.takeReply (s : State) : State :=
  match s.replies with
  | _ :: rs => { s with replies := rs }
  | [] => { s with draws := s.draws + 1 }

/-- What the delay service says next: the first listed answer, else a free value (rules R257, R258). -/
def State.nextDelay (s : State) : DelayReply :=
  match s.timer with
  | r :: _ => r
  | [] => Config.delayReply s.draws

/-- The delay service's next word has been used. -/
def State.takeDelay (s : State) : State :=
  match s.timer with
  | _ :: rs => { s with timer := rs }
  | [] => { s with draws := s.draws + 1 }

/-- Ghost: all of `bytes` reached the panel, under the selector level present while they moved (rule R62). -/
def State.deliver (s : State) (bytes : List Byte) : State :=
  { s with received := s.received ++ bytes.map fun b => (s.dc, b) }

/-- Ghost: some prefix of `bytes` reached the panel, none and all included (rule R243, U2). -/
def State.deliverPart (s : State) (bytes : List Byte) : State :=
  { s with
    received := s.received ++ (bytes.take (Config.deliveredCount s.draws)).map fun b => (s.dc, b)
    draws := s.draws + 1 }

/-- Where a micro-event, or a micro-program, got to. -/
inductive Run where
  /-- Performed. -/
  | finished (s : State)
  /-- A transmission was answered `err(e)`; its event is recorded. -/
  | failed (e : TransportError) (s : State)
  /-- The bus has not answered the transmission, or the delay service the delay, at `upc` yet (rules R258, R264): nothing of it is
  recorded, and no byte of it has reached the panel (DESIGN CHOICE, log entry 27). -/
  | waiting (s : State)

/-- `Tx(bytes)` (rules R8, R240, R242). -/
def State.transmit (s : State) (bytes : List Byte) : Run :=
  match s.nextReply with
  | .ok => .finished ((s.takeReply.record (.tx bytes .ok)).deliver bytes).advance
  | .err e => .failed e ((s.takeReply.record (.tx bytes (.err e))).deliverPart bytes)
  | .wait => .waiting s.takeReply

/-- `Delay(n)` (rules R8, R257): it has no failure, and it is over when the delay service says so. -/
def State.pause (s : State) (n : Nat) : Run :=
  match s.nextDelay with
  | .returned => .finished (s.takeDelay.record (.delay n)).advance
  | .wait => .waiting s.takeDelay

/-- One micro-event (rule R22). Drives always succeed (rule R256). -/
def State.perform (s : State) (m : Micro) : Run :=
  match m with
  | .rstSet b => .finished ((s.setRst b).record (.rst b)).advance
  | .dcSet b => .finished ((s.setDc b).record (.dc b)).advance
  | .delay n => s.pause n
  | .tx bytes => s.transmit bytes

/-- Micro-events one after another, to the end, the first failure, or the first unanswered transmission (rules R158, R162). -/
def runMicros (ms : List Micro) (s : State) : Run :=
  match ms with
  | [] => .finished s
  | m :: rest =>
    match s.perform m with
    | .finished s' => runMicros rest s'
    | .failed e s' => .failed e s'
    | .waiting s' => .waiting s'

/-- The block is idle again. -/
def State.release (s : State) : State := { s with busy := false, drawing := none }

/-- The answer to the host: the `RET` event, and idle (rules R22, R252). -/
def State.returnToHost (s : State) (r : Result) : State := (s.record (.ret r)).release

/-- Is the operation one of the host's, with a `RET` (rule R93)? -/
def Operation.isHost : Operation → Bool
  | .init | .setOrientation | .setPixel => true
  | .setAddressWindow | .softwareReset | .sleepOut | .displayOn | .setColumns _ _ | .setRows _ _ | .writePixel _ => false
  | .command _ _ | .startData | .writeData _ | .hardReset | .delayMs _ => false

/-- Ghost: all micro-events of the operation in progress were performed. -/
def State.panelAfterOk (s : State) : State :=
  { s with panel := Panel.afterOk s.op s.params s.cfg s.latch s.panel }

/-- Ghost: the operation in progress failed. -/
def State.panelAfterErr (s : State) : State := { s with panel := Panel.afterErr s.op s.panel }

/-- The end of `mprog` (rule R22): `RET(Ok)` for a host operation, and idle. -/
def State.complete (s : State) : State :=
  if s.op.isHost then s.panelAfterOk.returnToHost .ok else s.panelAfterOk.release

/-- TAKING THE EXCEPTION `TransmissionFailure(e)` after its `TX` event (rules R240, R242): the rest of `mprog` is abandoned,
`RET(Err(e))` for a host operation, idle; `cfg`, `dc`, `rst` keep their values. The return to the host IS the return from the exception
(rule R246). -/
def State.abort (s : State) (e : TransportError) : State :=
  if s.op.isHost then s.panelAfterErr.returnToHost (.err e) else s.panelAfterErr.release

/-- The expansion of an operation over the latches as they are (rule R22). -/
def State.expand (s : State) (op : Operation) : List Micro := expansion s.params s.cfg s.latch op

/-- Acceptance of an operation, its operands latched, with its expansion (rules R21, R22). -/
def State.accept (s : State) (op : Operation) : State :=
  { s with busy := true, op := op, upc := 0, mprog := s.expand op, drawing := none }

/-- The window latches (rule R30). -/
def State.latchWindow (s : State) (x0 y0 x1 y1 : Word) : State :=
  { s with latch := { s.latch with x0 := x0, y0 := y0, x1 := x1, y1 := y1 } }

/-- The pixel latches (rule R28). -/
def State.latchPixel (s : State) (x y color : Word) : State :=
  { s with latch := { s.latch with x := x, y := y, color := color } }

/-- The orientation latch (rule R29). -/
def State.latchOrientation (s : State) (o : Orientation) : State :=
  { s with latch := { s.latch with ori := o } }

/-- Acceptance of SET_PIXEL: the operands, and the window `X0 = X1 = X`, `Y0 = Y1 = Y` (rules R28, R30, R215). -/
def State.acceptPixel (s : State) (x y color : Word) : State :=
  ((s.latchPixel x y color).latchWindow x y x y).accept .setPixel

/-- Acceptance of the next pixel of a DRAW, `rest` still to come (rule R230). -/
def State.acceptDrawn (s : State) (q : Pixel) (rest : List Pixel) : State :=
  { s.acceptPixel q.x q.y q.color with drawing := some rest }

/-- The drawing adapter: one SET_PIXEL after another, stopping at the first failure (rules R230 to R233). A pixel's own `RET` is not
recorded (rule R231). -/
def drawPixels (ps : List Pixel) (s : State) : State :=
  match ps with
  | [] => s.returnToHost .ok
  | q :: rest =>
    match runMicros (s.acceptDrawn q rest).mprog (s.acceptDrawn q rest) with
    | .finished s' => drawPixels rest s'.panelAfterOk
    | .failed e s' => s'.abort e
    | .waiting s' => s'

/-- What follows a micro-program: the end of the operation, the next pixel of a DRAW, the exception, or waiting. -/
def Run.settle (r : Run) : State :=
  match r with
  | .finished s =>
    match s.drawing with
    | none => s.complete
    | some rest => drawPixels rest s.panelAfterOk
  | .failed e s => s.abort e
  | .waiting s => s

/-- The rest of the operation in progress. -/
def State.resume (s : State) : State := (runMicros (s.mprog.drop s.upc) s).settle

/-- An operation from its acceptance. -/
def State.start (s : State) (op : Operation) : State := (s.accept op).resume

/-- Rule R22's own step, one micro-event at a time: `resume` is its repetition (see the refinement statement). -/
def State.microStep (s : State) : State :=
  if s.busy then
    match s.mprog[s.upc]? with
    | some m =>
      match s.perform m with
      | .finished s' => s'
      | .failed e s' => s'.abort e
      | .waiting s' => s'
    | none =>
      match s.drawing with
      | none => s.complete
      | some [] => s.panelAfterOk.returnToHost .ok
      | some (q :: rest) => s.panelAfterOk.acceptDrawn q rest
  else s

/-- The request the host presents, with the state in which it has been taken (rules R251, R286). -/
def State.fetch (s : State) : Option (Instr × State) :=
  match s.requests with
  | [] => none
  | i :: rest => some (i, { s with requests := rest })

/-- A request is accepted only when `busy` is false (rule R252). -/
def whenIdle (s : State) (o : Host.Outcome State Fault Refusal) : Host.Outcome State Fault Refusal :=
  if s.busy then .refused .requestWhileBusy else o

/-- A wire command on its own, or WRITE_COMMAND: refused where its opcode is not in the block's table (rule R91). -/
def issue (s : State) (m : Mnemonic) (op : Operation) : Host.Outcome State Fault Refusal :=
  whenIdle s (if inTable s.params m then .next (s.start op) else .refused (.opcodeNotInTable m))

/-- The transaction of rule R81 for `m` with the parameters `ps` (rules R110, R151). -/
def issueCommand (s : State) (m : Mnemonic) (ps : List Byte) : Host.Outcome State Fault Refusal := issue s m (.command m ps)

/-- A host operation or a micro-operation. -/
def primitive (s : State) (op : Operation) : Host.Outcome State Fault Refusal := whenIdle s (.next (s.start op))

end Sys2Proof.Machine
end

