-- ==== Sys2Proof/Machine/Framing.lean ====
section
/-! DEFINITION. The seven micro-operations (rules R150 to R157, R212), each run on its own (decision D22, log entry 12): the micro-events of
its rule, no `RET`. -/

namespace Sys2Proof.Machine

open Sys2Proof

/-- SET_ADDRESS_WINDOW(x0, y0, x1, y1) (rules R212, R213): the operands into the window latches, then the two commands. -/
def execSetAddressWindow (x0 y0 x1 y1 : Word) (s : State) : Host.Outcome State Fault Refusal :=
  primitive (s.latchWindow x0 y0 x1 y1) .setAddressWindow

/-- WRITE_COMMAND(m, ps) (rule R151). It performs no delay. -/
def execWriteCommand (m : Mnemonic) (ps : List Byte) (s : State) : Host.Outcome State Fault Refusal := issueCommand s m ps

/-- START_DATA (rule R152). -/
def execStartData (s : State) : Host.Outcome State Fault Refusal := primitive s .startData

/-- WRITE_DATA(bytes), bytes non-empty (rule R153); the selector level is not read (rule R26, log entry 20). -/
def execWriteData (bytes : List Byte) (s : State) : Host.Outcome State Fault Refusal :=
  if bytes.isEmpty then .refused .emptyTransmission else primitive s (.writeData bytes)

/-- WRITE_WORD(v): WRITE_DATA of its two bytes, high byte first (rule R154). -/
def execWriteWord (v : Word) (s : State) : Host.Outcome State Fault Refusal := primitive s (.writeData (be16 v))

/-- HARD_RESET (rule R156). -/
def execHardReset (s : State) : Host.Outcome State Fault Refusal := primitive s .hardReset

/-- DELAY_MS(n) (rule R157). -/
def execDelayMs (n : Nat) (s : State) : Host.Outcome State Fault Refusal := primitive s (.delayMs n)

end Sys2Proof.Machine
end

