-- ==== Sys2Proof/Machine/HostOps.lean ====
section
/-! DEFINITION. The host operations NEW, INIT, SET_ORIENTATION, SET_PIXEL (rules R170, R179, R201, R215) and the pseudo-operation DRAW
(rule R230). -/

namespace Sys2Proof.Machine

open Sys2Proof

/-- NEW(rgb, inv): a new instance (rules R41, R170). It performs no I/O and never fails; the parameters and the environment are not
the instance's (log entry 16). -/
def execNew (rgb inv : Bool) (s : State) : Host.Outcome State Fault Refusal :=
  .next
    { params := s.params, cfg := ⟨rgb, inv⟩, dc := .undriven, rst := .undriven
      busy := false, op := .init, upc := 0, mprog := [], latch := Latches.reset, drawing := none
      trace := [], received := [], panel := Panel.reset
      requests := s.requests, replies := s.replies, timer := s.timer, draws := s.draws }

/-- INIT (rules R171, R179), refused where `CFG` is not supplied (rule R187) or not admissible (rule R177). -/
def execInit (s : State) : Host.Outcome State Fault Refusal :=
  whenIdle s
    (match s.params.configuration with
      | none => .refused .noConfiguration
      | some l =>
        if admissible s.params l then .next (s.start .init)
        else .refused .configurationNotAdmissible)

/-- SET_ORIENTATION(o) (rule R201). -/
def execSetOrientation (o : Orientation) (s : State) : Host.Outcome State Fault Refusal :=
  primitive (s.latchOrientation o) .setOrientation

/-- SET_PIXEL(x, y, color) (rule R215). -/
def execSetPixel (x y color : Word) (s : State) : Host.Outcome State Fault Refusal :=
  primitive ((s.latchPixel x y color).latchWindow x y x y) .setPixel

/-- DRAW(pixels) (rules R230 to R233). -/
def execDraw (pixels : List Pixel) (s : State) : Host.Outcome State Fault Refusal :=
  whenIdle s (.next (drawPixels pixels s))

end Sys2Proof.Machine
end

