-- ==== Sys2Proof/Machine/WireCommon.lean ====
section
/-! DEFINITION. The fifteen wire commands of both tables (rules R111 to R125), each run on its own: the transaction of its rule's
format (rules R81, R110, R151). SWRESET, SLPOUT and DISPON carry the settle delay their rules' examples show (log entry 11). -/

namespace Sys2Proof.Machine

open Sys2Proof

/-- SWRESET: `DC0 TX[01] DELAY(T_SWRESET)` (rule R111). -/
def execSwreset (s : State) : Host.Outcome State Fault Refusal := issue s .swreset .softwareReset

/-- SLPIN (rule R112). -/
def execSlpin (ps : List Byte) (s : State) : Host.Outcome State Fault Refusal := issueCommand s .slpin ps

/-- SLPOUT: `DC0 TX[11] DELAY(T_SLPOUT)` (rule R113). -/
def execSlpout (s : State) : Host.Outcome State Fault Refusal := issue s .slpout .sleepOut

/-- PTLON (rule R114). -/
def execPtlon (ps : List Byte) (s : State) : Host.Outcome State Fault Refusal := issueCommand s .ptlon ps

/-- NORON (rule R115). -/
def execNoron (ps : List Byte) (s : State) : Host.Outcome State Fault Refusal := issueCommand s .noron ps

/-- INVOFF, format W0 (rule R116). -/
def execInvoff (s : State) : Host.Outcome State Fault Refusal := issueCommand s .invoff []

/-- INVON, format W0 (rule R117). -/
def execInvon (s : State) : Host.Outcome State Fault Refusal := issueCommand s .invon []

/-- DISPOFF (rule R118). -/
def execDispoff (ps : List Byte) (s : State) : Host.Outcome State Fault Refusal := issueCommand s .dispoff ps

/-- DISPON: `DC0 TX[29] DELAY(T_DISPON)` (rule R119). -/
def execDispon (s : State) : Host.Outcome State Fault Refusal := issue s .dispon .displayOn

/-- CASET, format WA (rule R120). -/
def execCaset (first last : Word) (s : State) : Host.Outcome State Fault Refusal := issue s .caset (.setColumns first last)

/-- RASET, format WA (rule R121). -/
def execRaset (first last : Word) (s : State) : Host.Outcome State Fault Refusal := issue s .raset (.setRows first last)

/-- RAMWR, format WP (rule R122). -/
def execRamwr (color : Word) (s : State) : Host.Outcome State Fault Refusal := issue s .ramwr (.writePixel color)

/-- RAMRD (rule R123). -/
def execRamrd (ps : List Byte) (s : State) : Host.Outcome State Fault Refusal := issueCommand s .ramrd ps

/-- MADCTL, format W1 (rule R124). -/
def execMadctl (p : Byte) (s : State) : Host.Outcome State Fault Refusal := issueCommand s .madctl [p]

/-- COLMOD, format W1 (rule R125). -/
def execColmod (p : Byte) (s : State) : Host.Outcome State Fault Refusal := issueCommand s .colmod [p]

end Sys2Proof.Machine
end

