-- ==== Sys2Proof/Machine/WireOlder.lean ====
section
/-! DEFINITION. The twelve wire commands that only the older table holds (rules R126 to R138), each run on its own in format WL
(rule R84); where the block's table does not hold one it is refused (rules R91, R126, R139). -/

namespace Sys2Proof.Machine

open Sys2Proof

/-- FRMCTR1 (rule R127). -/
def execFrmctr1 (ps : List Byte) (s : State) : Host.Outcome State Fault Refusal := issueCommand s .frmctr1 ps

/-- FRMCTR2 (rule R128). -/
def execFrmctr2 (ps : List Byte) (s : State) : Host.Outcome State Fault Refusal := issueCommand s .frmctr2 ps

/-- FRMCTR3 (rule R129). -/
def execFrmctr3 (ps : List Byte) (s : State) : Host.Outcome State Fault Refusal := issueCommand s .frmctr3 ps

/-- INVCTR (rule R130). -/
def execInvctr (ps : List Byte) (s : State) : Host.Outcome State Fault Refusal := issueCommand s .invctr ps

/-- PWCTR1 (rule R131). -/
def execPwctr1 (ps : List Byte) (s : State) : Host.Outcome State Fault Refusal := issueCommand s .pwctr1 ps

/-- PWCTR2 (rule R132). -/
def execPwctr2 (ps : List Byte) (s : State) : Host.Outcome State Fault Refusal := issueCommand s .pwctr2 ps

/-- PWCTR3 (rule R133). -/
def execPwctr3 (ps : List Byte) (s : State) : Host.Outcome State Fault Refusal := issueCommand s .pwctr3 ps

/-- PWCTR4 (rule R134). -/
def execPwctr4 (ps : List Byte) (s : State) : Host.Outcome State Fault Refusal := issueCommand s .pwctr4 ps

/-- PWCTR5 (rule R135). -/
def execPwctr5 (ps : List Byte) (s : State) : Host.Outcome State Fault Refusal := issueCommand s .pwctr5 ps

/-- VMCTR1 (rule R136). -/
def execVmctr1 (ps : List Byte) (s : State) : Host.Outcome State Fault Refusal := issueCommand s .vmctr1 ps

/-- GMCTRP1 (rule R137). -/
def execGmctrp1 (ps : List Byte) (s : State) : Host.Outcome State Fault Refusal := issueCommand s .gmctrp1 ps

/-- GMCTRN1 (rule R138). -/
def execGmctrn1 (ps : List Byte) (s : State) : Host.Outcome State Fault Refusal := issueCommand s .gmctrn1 ps

end Sys2Proof.Machine
end

