-- ==== Sys2Proof/Machine/Dispatch.lean ====
section
/-! DEFINITION. Which meaning each instruction has: one arm per constructor of `Instr`. -/

namespace Sys2Proof.Machine

open Sys2Proof

/-- The effect of one instruction. -/
def exec (i : Instr) (s : State) : Host.Outcome State Fault Refusal :=
  match i with
  | .swreset => Sys2Proof.Machine.execSwreset s
  | .slpin ps => Sys2Proof.Machine.execSlpin ps s
  | .slpout => Sys2Proof.Machine.execSlpout s
  | .ptlon ps => Sys2Proof.Machine.execPtlon ps s
  | .noron ps => Sys2Proof.Machine.execNoron ps s
  | .invoff => Sys2Proof.Machine.execInvoff s
  | .invon => Sys2Proof.Machine.execInvon s
  | .dispoff ps => Sys2Proof.Machine.execDispoff ps s
  | .dispon => Sys2Proof.Machine.execDispon s
  | .caset first last => Sys2Proof.Machine.execCaset first last s
  | .raset first last => Sys2Proof.Machine.execRaset first last s
  | .ramwr color => Sys2Proof.Machine.execRamwr color s
  | .ramrd ps => Sys2Proof.Machine.execRamrd ps s
  | .madctl p => Sys2Proof.Machine.execMadctl p s
  | .colmod p => Sys2Proof.Machine.execColmod p s
  | .frmctr1 ps => Sys2Proof.Machine.execFrmctr1 ps s
  | .frmctr2 ps => Sys2Proof.Machine.execFrmctr2 ps s
  | .frmctr3 ps => Sys2Proof.Machine.execFrmctr3 ps s
  | .invctr ps => Sys2Proof.Machine.execInvctr ps s
  | .pwctr1 ps => Sys2Proof.Machine.execPwctr1 ps s
  | .pwctr2 ps => Sys2Proof.Machine.execPwctr2 ps s
  | .pwctr3 ps => Sys2Proof.Machine.execPwctr3 ps s
  | .pwctr4 ps => Sys2Proof.Machine.execPwctr4 ps s
  | .pwctr5 ps => Sys2Proof.Machine.execPwctr5 ps s
  | .vmctr1 ps => Sys2Proof.Machine.execVmctr1 ps s
  | .gmctrp1 ps => Sys2Proof.Machine.execGmctrp1 ps s
  | .gmctrn1 ps => Sys2Proof.Machine.execGmctrn1 ps s
  | .new rgb inv => Sys2Proof.Machine.execNew rgb inv s
  | .init => Sys2Proof.Machine.execInit s
  | .setOrientation o => Sys2Proof.Machine.execSetOrientation o s
  | .setPixel x y color => Sys2Proof.Machine.execSetPixel x y color s
  | .draw pixels => Sys2Proof.Machine.execDraw pixels s
  | .setAddressWindow x0 y0 x1 y1 => Sys2Proof.Machine.execSetAddressWindow x0 y0 x1 y1 s
  | .writeCommand m ps => Sys2Proof.Machine.execWriteCommand m ps s
  | .startData => Sys2Proof.Machine.execStartData s
  | .writeData bytes => Sys2Proof.Machine.execWriteData bytes s
  | .writeWord v => Sys2Proof.Machine.execWriteWord v s
  | .hardReset => Sys2Proof.Machine.execHardReset s
  | .delayMs n => Sys2Proof.Machine.execDelayMs n s

end Sys2Proof.Machine
end

