-- ==== Sys2Proof/Machine/Step.lean ====
section
/-! DEFINITION. One step of the machine: the operation in progress goes on, or the request the host presents runs (rules R251, R252);
and how a table word is presented as the next request. -/

namespace Sys2Proof.Machine

open Sys2Proof

/-- While an operation is in progress a presented request is held (rule R252). An idle block with no request stays as it is (rules
R251, R280). -/
def step (s : State) : Host.Outcome State Fault Refusal :=
  if s.busy then .next s.resume
  else
    match s.fetch with
    | none => .next s
    | some (i, s') => exec i s'

/-- `s` with the instruction of a table word as the request the host presents next, and the block idle, so that the next step runs it
(log entry 15). -/
def State.withFetchWord (s : State) (nbits w : Nat) : State :=
  match decodeTableWord nbits w with
  | none => s
  | some i => { s with busy := false, requests := i :: s.requests }

end Sys2Proof.Machine
end

