-- ==== Sys2Proof/Machine/InitFsm.lean ====
section
/-! DEFINITION. INIT as the state machine of rule R180: the same sequence as `initProgram`, `upc` spelled as a state name. `l` is
`CFG(GEN)`; its entries are numbered from 1, as in the rule's table. -/

namespace Sys2Proof.Machine

open Sys2Proof

/-- The states of rule R180's table. -/
inductive InitState where
  | idle
  | rstH1 | rstL | rstH2
  | swresetDc | swresetTx | swresetWait
  | slpoutDc | slpoutTx | slpoutWait
  | cfgDc (i : Nat) | cfgCmd (i : Nat) | cfgDdc (i : Nat) | cfgPar (i : Nat)
  | invDc | invTx
  | madDc | madCmd | madDdc | madPar
  | colDc | colCmd | colDdc | colPar
  | disponDc | disponTx | disponWait
  | done
  | fail (e : TransportError)
deriving DecidableEq, Repr

/-- Entry `i` of `CFG`, from 1. -/
def cfgEntry (l : List CfgEntry) (i : Nat) : CfgEntry := l.getD (i - 1) ⟨.swreset, []⟩

/-- The state in which entry `i` begins, or the polarity command where the list is at its end. -/
def beginEntry (l : List CfgEntry) (i : Nat) : InitState := if i ≤ l.length then .cfgDc i else .invDc

/-- The column "micro-event"; none in `idle`, `done` and `fail`. -/
def InitState.event (p : Params) (c : Cfg) (l : List CfgEntry) : InitState → Option Micro
  | .idle => none
  | .rstH1 => some (.rstSet true)
  | .rstL => some (.rstSet false)
  | .rstH2 => some (.rstSet true)
  | .swresetDc => some (.dcSet false)
  | .swresetTx => some (.tx [0x01])
  | .swresetWait => some (.delay p.tSwreset)
  | .slpoutDc => some (.dcSet false)
  | .slpoutTx => some (.tx [0x11])
  | .slpoutWait => some (.delay p.tSlpout)
  | .cfgDc _ => some (.dcSet false)
  | .cfgCmd i => some (.tx [opByte p (cfgEntry l i).mnemonic])
  | .cfgDdc _ => some (.dcSet true)
  | .cfgPar i => some (.tx (cfgEntry l i).params)
  | .invDc => some (.dcSet false)
  | .invTx => some (.tx [if c.inv then opByte p .invon else opByte p .invoff])
  | .madDc => some (.dcSet false)
  | .madCmd => some (.tx [0x36])
  | .madDdc => some (.dcSet true)
  | .madPar => some (.tx [if c.rgb then p.madctlInitBase else p.madctlInitBase ||| 0x08])
  | .colDc => some (.dcSet false)
  | .colCmd => some (.tx [0x3A])
  | .colDdc => some (.dcSet true)
  | .colPar => some (.tx [p.colmodParam])
  | .disponDc => some (.dcSet false)
  | .disponTx => some (.tx [0x29])
  | .disponWait => some (.delay p.tDispon)
  | .done => none
  | .fail _ => none

/-- The column "next", the event having been performed; `idle` waits for a request. -/
def InitState.next (l : List CfgEntry) : InitState → InitState
  | .idle => .idle
  | .rstH1 => .rstL
  | .rstL => .rstH2
  | .rstH2 => .swresetDc
  | .swresetDc => .swresetTx
  | .swresetTx => .swresetWait
  | .swresetWait => .slpoutDc
  | .slpoutDc => .slpoutTx
  | .slpoutTx => .slpoutWait
  | .slpoutWait => beginEntry l 1
  | .cfgDc i => .cfgCmd i
  | .cfgCmd i => if (cfgEntry l i).params.isEmpty then beginEntry l (i + 1) else .cfgDdc i
  | .cfgDdc i => .cfgPar i
  | .cfgPar i => beginEntry l (i + 1)
  | .invDc => .invTx
  | .invTx => .madDc
  | .madDc => .madCmd
  | .madCmd => .madDdc
  | .madDdc => .madPar
  | .madPar => .colDc
  | .colDc => .colCmd
  | .colCmd => .colDdc
  | .colDdc => .colPar
  | .colPar => .disponDc
  | .disponDc => .disponTx
  | .disponTx => .disponWait
  | .disponWait => .done
  | .done => .idle
  | .fail _ => .idle

/-- The mark (T): the states that a failed transmission leaves for `fail`. -/
def InitState.canFail : InitState → Bool
  | .swresetTx | .slpoutTx | .cfgCmd _ | .cfgPar _ | .invTx | .madCmd | .madPar | .colCmd | .colPar | .disponTx => true
  | .idle | .rstH1 | .rstL | .rstH2 | .swresetDc | .swresetWait | .slpoutDc | .slpoutWait => false
  | .cfgDc _ | .cfgDdc _ | .invDc | .madDc | .madDdc | .colDc | .colDdc | .disponDc | .disponWait => false
  | .done | .fail _ => false

/-- The state after `k` performed events from the acceptance of INIT. -/
def initStateAt (l : List CfgEntry) : Nat → InitState
  | 0 => .rstH1
  | k + 1 => (initStateAt l k).next l

end Sys2Proof.Machine
end

