-- ==== Sys2Proof/Safety.lean ====
section
/-! DEFINITION. The terms in which claims about the machine are made: the operation that an instruction accepts, the events of a
micro-program whose transmissions succeed or fail, the wire view (rule R9), the framing discipline (rule R155), the lower bound on time
(rule R69), what an operation leaves alone, and the invariant of the state. -/

namespace Sys2Proof

open Sys2Proof.Machine

/-- The operation that the instruction accepts (rule R21). NEW and DRAW accept none: NEW performs no micro-event (rule R170), DRAW accepts
one SET_PIXEL after another (rule R230). -/
def Instr.operation : Instr → Option Operation
  | .new _ _ | .draw _ => none
  | .init => some .init
  | .setOrientation _ => some .setOrientation
  | .setPixel _ _ _ => some .setPixel
  | .setAddressWindow _ _ _ _ => some .setAddressWindow
  | .swreset => some .softwareReset
  | .slpout => some .sleepOut
  | .dispon => some .displayOn
  | .caset a b => some (.setColumns a b)
  | .raset a b => some (.setRows a b)
  | .ramwr c => some (.writePixel c)
  | .slpin ps => some (.command .slpin ps)
  | .ptlon ps => some (.command .ptlon ps)
  | .noron ps => some (.command .noron ps)
  | .invoff => some (.command .invoff [])
  | .invon => some (.command .invon [])
  | .dispoff ps => some (.command .dispoff ps)
  | .ramrd ps => some (.command .ramrd ps)
  | .madctl b => some (.command .madctl [b])
  | .colmod b => some (.command .colmod [b])
  | .frmctr1 ps => some (.command .frmctr1 ps)
  | .frmctr2 ps => some (.command .frmctr2 ps)
  | .frmctr3 ps => some (.command .frmctr3 ps)
  | .invctr ps => some (.command .invctr ps)
  | .pwctr1 ps => some (.command .pwctr1 ps)
  | .pwctr2 ps => some (.command .pwctr2 ps)
  | .pwctr3 ps => some (.command .pwctr3 ps)
  | .pwctr4 ps => some (.command .pwctr4 ps)
  | .pwctr5 ps => some (.command .pwctr5 ps)
  | .vmctr1 ps => some (.command .vmctr1 ps)
  | .gmctrp1 ps => some (.command .gmctrp1 ps)
  | .gmctrn1 ps => some (.command .gmctrn1 ps)
  | .writeCommand m ps => some (.command m ps)
  | .startData => some .startData
  | .writeData bytes => some (.writeData bytes)
  | .writeWord v => some (.writeData [hi v, lo v])
  | .hardReset => some .hardReset
  | .delayMs n => some (.delayMs n)

/-- The latches once the instruction's operands are latched (rules R28 to R30). -/
def Instr.latched (i : Instr) (l : Latches) : Latches :=
  match i with
  | .setOrientation o => { l with ori := o }
  | .setPixel x y c => ⟨x, y, c, l.ori, x, y, x, y⟩
  | .setAddressWindow x0 y0 x1 y1 => { l with x0 := x0, y0 := y0, x1 := x1, y1 := y1 }
  | _ => l

/-- Is the instruction one that an idle block accepts: its opcode is in the table (rule R91), its transmission is not empty (rule R153), and
for INIT there is an admissible `CFG` (rules R177, R187). -/
def Instr.acceptable (p : Params) (i : Instr) : Bool :=
  i.wellFormed
  && (match i.wireForm with
      | some (m, _) => inTable p m
      | none => true)
  && (match i with
      | .writeCommand m _ => inTable p m
      | .init => p.configuration.any (admissible p)
      | _ => true)

end Sys2Proof

namespace Sys2Proof.Machine

open Sys2Proof

/-- The micro-program that the instruction accepts (rule R22); nothing for NEW and DRAW. -/
def State.programOf (s : State) (i : Instr) : List Micro :=
  match i.operation with
  | some op => expansion s.params s.cfg (i.latched s.latch) op
  | none => []

/-- The event of a micro-event whose transmission, if it is one, succeeds. -/
def Micro.event : Micro → Event
  | .rstSet b => .rst b
  | .dcSet b => .dc b
  | .tx bytes => .tx bytes .ok
  | .delay n => .delay n

/-- The events of a micro-program all of whose transmissions succeed. -/
def okEvents (ms : List Micro) : List Event := ms.map Micro.event

/-- The number of transmissions of a micro-program (rule R241: its failure points). -/
def txCount (ms : List Micro) : Nat :=
  match ms with
  | [] => 0
  | .tx _ :: rest => txCount rest + 1
  | .rstSet _ :: rest | .dcSet _ :: rest | .delay _ :: rest => txCount rest

/-- The number of delays of a micro-program. -/
def delayCount (ms : List Micro) : Nat :=
  match ms with
  | [] => 0
  | .delay _ :: rest => delayCount rest + 1
  | .rstSet _ :: rest | .dcSet _ :: rest | .tx _ :: rest => delayCount rest

/-- Does the micro-event wait for a collaborator's word (rules R255, R257): a transmission or a delay. -/
def Micro.isAnswered : Micro → Bool
  | .tx _ | .delay _ => true
  | .rstSet _ | .dcSet _ => false

/-- What comes before transmission `n`, counted from 0. -/
def beforeTx (ms : List Micro) (n : Nat) : List Micro :=
  match ms, n with
  | [], _ => []
  | .tx _ :: _, 0 => []
  | .tx b :: rest, n + 1 => .tx b :: beforeTx rest n
  | .rstSet b :: rest, n => .rstSet b :: beforeTx rest n
  | .dcSet b :: rest, n => .dcSet b :: beforeTx rest n
  | .delay d :: rest, n => .delay d :: beforeTx rest n

/-- The bytes of transmission `n`, counted from 0. -/
def txAt (ms : List Micro) (n : Nat) : List Byte :=
  match ms, n with
  | [], _ => []
  | .tx b :: _, 0 => b
  | .tx _ :: rest, n + 1 => txAt rest n
  | .rstSet _ :: rest, n | .dcSet _ :: rest, n | .delay _ :: rest, n => txAt rest n

/-- The events of a micro-program whose transmission `n` is the first to fail (rules R185, R217). -/
def errEvents (ms : List Micro) (n : Nat) (e : TransportError) : List Event :=
  okEvents (beforeTx ms n) ++ [.tx (txAt ms n) (.err e)]

/-- The selector level after a micro-program. -/
def dcAfter (ms : List Micro) (d : Level) : Level :=
  match ms with
  | [] => d
  | .dcSet b :: rest => dcAfter rest (level b)
  | .rstSet _ :: rest | .tx _ :: rest | .delay _ :: rest => dcAfter rest d

/-- The reset level after a micro-program. -/
def rstAfter (ms : List Micro) (r : Level) : Level :=
  match ms with
  | [] => r
  | .rstSet b :: rest => rstAfter rest (level b)
  | .dcSet _ :: rest | .tx _ :: rest | .delay _ :: rest => rstAfter rest r

/-- The events of WRITE_COMMAND(m, ps), its transmissions succeeding (rule R151). -/
def commandEvents (op : Byte) (ps : List Byte) : List Event :=
  match ps with
  | [] => [.dc false, .tx [op] .ok]
  | b :: bs => [.dc false, .tx [op] .ok, .dc true, .tx (b :: bs) .ok]

/-- The number of transmissions of WRITE_COMMAND(m, ps) (rule R241). -/
def commandTx (ps : List Byte) : Nat := if ps.isEmpty then 1 else 2

/-- The wire view from a level on: each byte sent, tagged with the level of the latest selector drive (rule R9). -/
def wireFrom (d : Level) : List Event → List WirePair
  | [] => []
  | .dc b :: rest => wireFrom (level b) rest
  | .tx bytes _ :: rest => bytes.map (fun b => (d, b)) ++ wireFrom d rest
  | .rst _ :: rest | .delay _ :: rest | .ret _ :: rest => wireFrom d rest

/-- The wire view of a trace (rule R9). -/
def wireView (tr : List Event) : List WirePair := wireFrom .undriven tr

/-- The milliseconds a trace lasts at least: the sum of its delays (rules R69, R302). -/
def minMillis : List Event → Nat
  | [] => 0
  | .delay n :: rest => n + minMillis rest
  | .rst _ :: rest | .dc _ :: rest | .tx _ _ :: rest | .ret _ :: rest => minMillis rest

/-- How many events of the list satisfy `f`. -/
def countEvents (f : Event → Bool) (tr : List Event) : Nat := (tr.filter f).length

/-- Is the event a transmission? -/
def Event.isTx : Event → Bool
  | .tx _ _ => true
  | .rst _ | .dc _ | .delay _ | .ret _ => false

/-- Is the event a drive of the selector? -/
def Event.isDc : Event → Bool
  | .dc _ => true
  | .rst _ | .tx _ _ | .delay _ | .ret _ => false

/-- Is the event a drive of the reset line? -/
def Event.isRst : Event → Bool
  | .rst _ => true
  | .dc _ | .tx _ _ | .delay _ | .ret _ => false

/-- Is the event a delay? -/
def Event.isDelay : Event → Bool
  | .delay _ => true
  | .dc _ | .rst _ | .tx _ _ | .ret _ => false

/-- Is the byte an opcode of the block's table? -/
def isOpcode (p : Params) (b : Byte) : Bool := p.table.any fun m => opByte p m == b

/-- Where a trace stands with respect to the framing discipline (rule R155). -/
inductive Phase where
  /-- Outside a transaction: no transmission and no high drive may come next. -/
  | quiet
  /-- The selector has just been driven low: exactly one opcode byte must be transmitted next. -/
  | needOpcode
  /-- An opcode has just been transmitted: a high drive may come next. -/
  | afterOpcode
  /-- The selector has just been driven high: a data transmission must come next. -/
  | needData
  /-- In a data phase: further data transmissions may come. -/
  | data
deriving DecidableEq, Repr

/-- One event against the framing discipline of a block with the table of `p`; `none` is a breach (rule R155 (a), (b), (c)). After a failed
transmission nothing of the transaction may follow (rule R158). -/
def Phase.event (p : Params) : Phase → Event → Option Phase
  | .needOpcode, .tx [b] .ok => if isOpcode p b then some .afterOpcode else none
  | .needOpcode, .tx [b] (.err _) => if isOpcode p b then some .quiet else none
  | .needOpcode, .tx _ _ | .needOpcode, .dc _ | .needOpcode, .rst _ | .needOpcode, .delay _ | .needOpcode, .ret _ => none
  | .needData, .tx (_ :: _) .ok | .data, .tx (_ :: _) .ok => some .data
  | .needData, .tx (_ :: _) (.err _) | .data, .tx (_ :: _) (.err _) => some .quiet
  | .needData, .tx [] _ | .data, .tx [] _ => none
  | .needData, .dc _ | .needData, .rst _ | .needData, .delay _ | .needData, .ret _ => none
  | .quiet, .tx _ _ | .afterOpcode, .tx _ _ => none
  | .quiet, .dc false | .afterOpcode, .dc false | .data, .dc false => some .needOpcode
  | .afterOpcode, .dc true => some .needData
  | .quiet, .dc true | .data, .dc true => none
  | .quiet, .rst _ | .quiet, .delay _ | .quiet, .ret _ => some .quiet
  | .afterOpcode, .rst _ | .afterOpcode, .delay _ | .afterOpcode, .ret _ => some .quiet
  | .data, .rst _ | .data, .delay _ | .data, .ret _ => some .quiet

/-- A list of events against the framing discipline. -/
def Phase.run (p : Params) (φ : Phase) : List Event → Option Phase
  | [] => some φ
  | e :: rest =>
    match φ.event p e with
    | none => none
    | some φ' => Phase.run p φ' rest

/-- No drive of the selector is left without its transmission (rules R155 (c), R160). -/
def Phase.settled : Phase → Bool
  | .quiet | .afterOpcode | .data => true
  | .needOpcode | .needData => false

/-- The trace keeps the framing discipline to its end. -/
def framed (p : Params) (tr : List Event) : Bool :=
  match Phase.run p .quiet tr with
  | some φ => φ.settled
  | none => false

/-- The framing discipline as an invariant of a machine whose host issues host operations only: what has been done keeps it, and
with what is still to do of the operation in progress it is kept to the end. -/
def FramingInv (s : State) : Prop :=
  (s.requests.all Instr.isHostOperation = true)
  ∧ ∃ φ, Phase.run s.params .quiet s.trace = some φ
      ∧ (s.busy = false → φ.settled = true)
      ∧ (s.busy = true → ∃ φ', Phase.run s.params φ (okEvents (s.mprog.drop s.upc)) = some φ' ∧ φ'.settled = true)

/-- What is known of the panel is kept in canonical form: unless it stands under the premises of rules R66 (a) and R177 nothing is
known but that it is asleep (rule R262); no cell is known in another pixel format (rule R183); every known cell and every known range lies
inside the panel in a known coordinate frame (rule R66 (b), U4). -/
def Panel.Inv (p : Params) (q : Panel) : Prop :=
  FrameMem.wf q.fm = true
  ∧ (q.standing = false → q = { Panel.blank q.cfg with awake := q.awake } ∧ q.awake ≠ some true)
  ∧ (q.wordCells = false → q.fm = [])
  ∧ (∀ c ∈ q.fm, ∃ f, q.frame = some f ∧ c.1 / 65536 < (frameSize p f).width ∧ c.1 % 65536 < (frameSize p f).height)
  ∧ (∀ c, q.columns = some c → c.first.toNat ≤ c.last.toNat ∧ ∃ f, q.frame = some f ∧ c.last.toNat < (frameSize p f).width)
  ∧ (∀ c, q.rows = some c → c.first.toNat ≤ c.last.toNat ∧ ∃ f, q.frame = some f ∧ c.last.toNat < (frameSize p f).height)

/-- The sequencer's registers agree with each other (rules R21, R22, R28 to R30): `mprog` is the expansion of the operation in
progress over its latches, `upc` is a position in it, INIT runs only with a `CFG`, the window of a SET_PIXEL is its pixel, and a drawing
adapter runs only while a SET_PIXEL is in progress. -/
def SequencerInv (s : State) : Prop :=
  (s.busy = false → s.drawing = none)
  ∧ (s.drawing ≠ none → s.op = .setPixel)
  ∧ (s.busy = true →
      s.upc ≤ s.mprog.length
      ∧ s.mprog = expansion s.params s.cfg s.latch s.op
      ∧ (s.op = .init → s.params.configuration.isSome = true)
      ∧ (s.op = .setPixel → s.latch = ⟨s.latch.x, s.latch.y, s.latch.color, s.latch.ori, s.latch.x, s.latch.y, s.latch.x, s.latch.y⟩))

/-- Once an INIT in progress has performed a micro-event nothing is known of the panel but what the bring-up itself has done (rules R262,
R281). -/
def BringUpInv (s : State) : Prop :=
  s.busy = true → s.op = .init → 0 < s.upc → s.panel = s.panel.broughtUp s.params s.upc

/-- The invariant of the state. -/
def State.Inv (s : State) : Prop := SequencerInv s ∧ BringUpInv s ∧ s.panel.Inv s.params

/-- The two states agree in everything a step of the block may read of its configuration and its environment (rules R26, R27, R31, R32, R40:
nothing else is read). -/
def SameInputs (s t : State) : Prop :=
  s.params = t.params ∧ s.cfg = t.cfg ∧ s.requests = t.requests ∧ s.replies = t.replies ∧ s.timer = t.timer ∧ s.draws = t.draws

/-- The two states are both idle, or both at the same place of the same operation (rules R21, R22, R230). The latches are not compared: they have
been expanded into `mprog` at acceptance. -/
def SameProgress (s t : State) : Prop :=
  s.busy = t.busy
  ∧ (s.busy = true → s.op = t.op ∧ s.upc = t.upc ∧ s.mprog = t.mprog ∧ s.drawing = t.drawing)

/-- The configuration passes its check (rules R141, R177), and step 4 of INIT sends the sequence that the panel requires, which is not the
empty one (rule R177), and names none of the three commands that owe a settle delay (rule R292, U6) and not sleep-in (rules R112, R262).
Log entry 18. -/
def SendsRequired (p : Params) : Prop :=
  p.wellFormed = true ∧ p.configuration = some p.panelSequence ∧ p.panelSequence ≠ []
  ∧ ∀ e ∈ p.panelSequence, e.mnemonic ∉ [Mnemonic.swreset, .slpin, .slpout, .dispon]

/-- The operation is over: the trace grew by `evs`, the bus's answers left are `rest` and the delay service's `later`, and the parameters,
the control register, the host's requests and the counter of free values are as they were. -/
def Completed (s t : State) (evs : List Event) (rest : List BusReply) (later : List DelayReply) : Prop :=
  t.busy = false ∧ t.trace = s.trace ++ evs ∧ t.replies = rest ∧ t.timer = later
  ∧ t.params = s.params ∧ t.cfg = s.cfg ∧ t.requests = s.requests ∧ t.draws = s.draws

/-- The operation is held (rule R264): busy, at position `n` of its micro-program, before a transmission or a delay that has no answer yet. The
trace grew by `evs`, the bus's answers left are `rest` and the delay service's `later`, and the parameters, the control register, the host's
requests and the counter of free values are as they were. -/
def HeldAt (s t : State) (evs : List Event) (n : Nat) (rest : List BusReply) (later : List DelayReply) : Prop :=
  t.busy = true ∧ t.trace = s.trace ++ evs ∧ t.upc = n ∧ t.replies = rest ∧ t.timer = later
  ∧ t.params = s.params ∧ t.cfg = s.cfg ∧ t.requests = s.requests ∧ t.draws = s.draws

/-- The words listed for the micro-events `pre` are `ok` and `returned`, and the one listed for `m` after them is that there is no answer
yet (rules R258, R264); of the bus's answers `rest` are left then, of the delay service's `later`. -/
def UnansweredAt (s : State) (pre : List Micro) (m : Micro) (rest : List BusReply) (later : List DelayReply) : Prop :=
  ((∃ bytes, m = .tx bytes) ∧ s.replies = List.replicate (txCount pre) .ok ++ .wait :: rest
      ∧ s.timer = List.replicate (delayCount pre) .returned ++ later)
  ∨ ((∃ n, m = .delay n) ∧ s.replies = List.replicate (txCount pre) .ok ++ rest
      ∧ s.timer = List.replicate (delayCount pre) .returned ++ .wait :: later)

/-- Run on its own from `s`, the instruction `i` of the wire or micro layer completes: the events `evs`, the selector left at `d`, the
reset line at `r`, the latches untouched, no `RET`. -/
def CompletesWith (s : State) (i : Instr) (evs : List Event) (d r : Level) (rest : List BusReply) (later : List DelayReply) : Prop :=
  ∃ t, exec i s = .next t ∧ Completed s t evs rest later ∧ t.dc = d ∧ t.rst = r ∧ t.latch = s.latch

/-- Run on its own from `s`, the instruction `i` of the wire or micro layer fails: the events `evs`, of which the last is its failed transmission,
nothing after it and no `RET`; the selector is left at `d` and the reset line as it was; of the answers `rest` and `later` are left. -/
def FailsWith (s : State) (i : Instr) (evs : List Event) (d : Level) (rest : List BusReply) (later : List DelayReply) : Prop :=
  ∃ t, exec i s = .next t ∧ t.busy = false ∧ t.trace = s.trace ++ evs ∧ t.dc = d ∧ t.rst = s.rst ∧ t.cfg = s.cfg
    ∧ t.replies = rest ∧ t.timer = later

/-- What is known of the cell (x, y) of the panel's frame memory; nothing while an operation is in progress (log entry 18). -/
def State.cell (s : State) (x y : Word) : Option Word :=
  if s.busy then none else s.panel.fm.read (cellKey x y)

/-- The colour the sequence gives the location (x, y) last, if it names it (rule R233). -/
def lastColour (ps : List Pixel) (x y : Word) : Option Word :=
  (ps.reverse.find? fun q => q.x == x && q.y == y).map Pixel.color

/-- The ten-event list of the two window commands, all transmissions succeeding (rule R212). -/
def windowEvents (x0 y0 x1 y1 : Word) : List Event :=
  [.dc false, .tx [0x2A] .ok, .dc true, .tx [hi x0, lo x0] .ok, .tx [hi x1, lo x1] .ok,
   .dc false, .tx [0x2B] .ok, .dc true, .tx [hi y0, lo y0] .ok, .tx [hi y1, lo y1] .ok]

/-- The fourteen-event list of SET_PIXEL, all transmissions succeeding (rule R215). -/
def pixelEvents (x y c : Word) : List Event :=
  windowEvents x y x y ++ [.dc false, .tx [0x2C] .ok, .dc true, .tx [hi c, lo c] .ok]

end Sys2Proof.Machine
end

