-- ==== Sys2Proof/Certificates/Slice0/Obligations.lean ====
section
/-! DEFINITION. The statements for the provers, drawn from the numbered rules of spec/. Each docstring names the rules. A bus answer
list `List.replicate n .ok ++ …` says what the bus answers to the next transmissions (rule R255), a list `List.replicate n .returned ++ …` of
the delay service that the next delays are over (rule R257); every statement holds for every value of the parameters of rule R6, because
they stand in the state. -/

open Sys2Proof Sys2Proof.Machine

/-! ### Construction and reset -/

/-- The state after reset has the values of rule R41's table, and reset is NEW with the two flag straps (rules R41, R280). The values of `op`, `upc`
and the latches, "don't care" there, are not stated. -/
def Obligations.ResetIsConstruction : Prop :=
  exec (.new Config.strapRgb Config.strapInv) State.reset = .next State.reset
  ∧ State.reset.dc = .undriven ∧ State.reset.rst = .undriven ∧ State.reset.busy = false
  ∧ State.reset.trace = [] ∧ State.reset.panel.cfg = .never ∧ State.reset.panel.fm = []

/-- NEW writes the two flags, leaves the block idle with an empty trace and undriven lines, and never fails, from any state and with
any flags; it uses no answer of the bus (rules R41, R170). -/
def Obligations.NewConstructs : Prop :=
  ∀ (s : State) (rgb inv : Bool), ∃ t, exec (.new rgb inv) s = .next t
    ∧ t.cfg = ⟨rgb, inv⟩ ∧ t.busy = false ∧ t.trace = [] ∧ t.dc = .undriven ∧ t.rst = .undriven
    ∧ t.panel.cfg = .never ∧ t.received = []
    ∧ t.params = s.params ∧ t.replies = s.replies ∧ t.timer = s.timer ∧ t.draws = s.draws ∧ t.requests = s.requests

/-! ### Wire commands -/

/-- SWRESET, SLPOUT and DISPON: the opcode with the selector low, then the settle delay, as in the examples of rules R111, R113, R119
(log entry 11). -/
def Obligations.SettlingCommandsComplete : Prop :=
  ∀ (s : State) (rest : List BusReply) (later : List DelayReply), s.busy = false → s.replies = .ok :: rest →
    s.timer = .returned :: later →
    CompletesWith s .swreset [.dc false, .tx [0x01] .ok, .delay s.params.tSwreset] .low s.rst rest later
    ∧ CompletesWith s .slpout [.dc false, .tx [0x11] .ok, .delay s.params.tSlpout] .low s.rst rest later
    ∧ CompletesWith s .dispon [.dc false, .tx [0x29] .ok, .delay s.params.tDispon] .low s.rst rest later

/-- INVOFF and INVON, format W0 (rules R82, R116, R117). -/
def Obligations.PolarityCommandsComplete : Prop :=
  ∀ (s : State) (rest : List BusReply), s.busy = false → s.replies = .ok :: rest →
    CompletesWith s .invoff [.dc false, .tx [opByte s.params .invoff] .ok] .low s.rst rest s.timer
    ∧ CompletesWith s .invon [.dc false, .tx [opByte s.params .invon] .ok] .low s.rst rest s.timer

/-- The common opcodes that no operation issues, run on their own as the general transaction of rule R81 (rules R110, R112, R114, R115,
R118, R123; log entry 11). -/
def Obligations.UnissuedCommonCommandsComplete : Prop :=
  ∀ (s : State) (ps : List Byte) (rest : List BusReply), s.busy = false →
    s.replies = List.replicate (commandTx ps) .ok ++ rest →
    let d : Level := if ps.isEmpty then .low else .high
    CompletesWith s (.slpin ps) (commandEvents (opByte s.params .slpin) ps) d s.rst rest s.timer
    ∧ CompletesWith s (.ptlon ps) (commandEvents (opByte s.params .ptlon) ps) d s.rst rest s.timer
    ∧ CompletesWith s (.noron ps) (commandEvents (opByte s.params .noron) ps) d s.rst rest s.timer
    ∧ CompletesWith s (.dispoff ps) (commandEvents (opByte s.params .dispoff) ps) d s.rst rest s.timer
    ∧ CompletesWith s (.ramrd ps) (commandEvents (opByte s.params .ramrd) ps) d s.rst rest s.timer

/-- The older table's own commands complete on GEN_OLDER, format WL, each where the table holds it, with the table's byte (rules R84, R126 to
R138; log entries 11, 28). -/
def Obligations.OlderCommandsComplete : Prop :=
  ∀ (s : State) (ps : List Byte) (rest : List BusReply), s.busy = false → s.params.gen = .older →
    s.replies = List.replicate (commandTx ps) .ok ++ rest →
    let d : Level := if ps.isEmpty then .low else .high
    (∀ b, s.params.olderOnly.frmctr1 = some b → CompletesWith s (.frmctr1 ps) (commandEvents b ps) d s.rst rest s.timer)
    ∧ (∀ b, s.params.olderOnly.frmctr2 = some b → CompletesWith s (.frmctr2 ps) (commandEvents b ps) d s.rst rest s.timer)
    ∧ (∀ b, s.params.olderOnly.frmctr3 = some b → CompletesWith s (.frmctr3 ps) (commandEvents b ps) d s.rst rest s.timer)
    ∧ (∀ b, s.params.olderOnly.invctr = some b → CompletesWith s (.invctr ps) (commandEvents b ps) d s.rst rest s.timer)
    ∧ (∀ b, s.params.olderOnly.pwctr1 = some b → CompletesWith s (.pwctr1 ps) (commandEvents b ps) d s.rst rest s.timer)
    ∧ (∀ b, s.params.olderOnly.pwctr2 = some b → CompletesWith s (.pwctr2 ps) (commandEvents b ps) d s.rst rest s.timer)
    ∧ (∀ b, s.params.olderOnly.pwctr3 = some b → CompletesWith s (.pwctr3 ps) (commandEvents b ps) d s.rst rest s.timer)
    ∧ (∀ b, s.params.olderOnly.pwctr4 = some b → CompletesWith s (.pwctr4 ps) (commandEvents b ps) d s.rst rest s.timer)
    ∧ (∀ b, s.params.olderOnly.pwctr5 = some b → CompletesWith s (.pwctr5 ps) (commandEvents b ps) d s.rst rest s.timer)
    ∧ (∀ b, s.params.olderOnly.vmctr1 = some b → CompletesWith s (.vmctr1 ps) (commandEvents b ps) d s.rst rest s.timer)
    ∧ (∀ b, s.params.olderOnly.gmctrp1 = some b → CompletesWith s (.gmctrp1 ps) (commandEvents b ps) d s.rst rest s.timer)
    ∧ (∀ b, s.params.olderOnly.gmctrn1 = some b → CompletesWith s (.gmctrn1 ps) (commandEvents b ps) d s.rst rest s.timer)

/-- An opcode outside the block's table is never sent: a wire command whose own opcode it is, and WRITE_COMMAND of it, are refused (rule R91);
on GEN_NEWER every opcode but the fifteen common ones is outside, on GEN_OLDER the ones the configuration leaves out (rules R126, R139;
log entry 28). -/
def Obligations.OlderCommandsRefusedOnNewer : Prop :=
  ∀ (s : State) (m : Mnemonic), s.busy = false →
    (inTable s.params m = false →
      (∀ (i : Instr) (qs : List Byte), i.wireForm = some (m, qs) → exec i s = .refused (.opcodeNotInTable m))
      ∧ ∀ ps : List Byte, exec (.writeCommand m ps) s = .refused (.opcodeNotInTable m))
    ∧ (s.params.gen = .newer →
        m ∉ [Mnemonic.swreset, .slpin, .slpout, .ptlon, .noron, .invoff, .invon, .dispoff, .dispon, .caset, .raset, .ramwr, .ramrd,
          .madctl, .colmod] → inTable s.params m = false)
    ∧ (s.params.gen = .older →
        (m, none) ∈ [(Mnemonic.frmctr1, s.params.olderOnly.frmctr1), (.frmctr2, s.params.olderOnly.frmctr2),
          (.frmctr3, s.params.olderOnly.frmctr3), (.invctr, s.params.olderOnly.invctr), (.pwctr1, s.params.olderOnly.pwctr1),
          (.pwctr2, s.params.olderOnly.pwctr2), (.pwctr3, s.params.olderOnly.pwctr3), (.pwctr4, s.params.olderOnly.pwctr4),
          (.pwctr5, s.params.olderOnly.pwctr5), (.vmctr1, s.params.olderOnly.vmctr1), (.gmctrp1, s.params.olderOnly.gmctrp1),
          (.gmctrn1, s.params.olderOnly.gmctrn1)] → inTable s.params m = false)

/-- CASET and RASET, format WA: the opcode, then two big-endian words, start then end (rules R85, R120, R121). -/
def Obligations.RangeCommandsComplete : Prop :=
  ∀ (s : State) (a b : Word) (rest : List BusReply), s.busy = false → s.replies = List.replicate 3 .ok ++ rest →
    CompletesWith s (.caset a b) [.dc false, .tx [0x2A] .ok, .dc true, .tx [hi a, lo a] .ok, .tx [hi b, lo b] .ok] .high s.rst rest s.timer
    ∧ CompletesWith s (.raset a b) [.dc false, .tx [0x2B] .ok, .dc true, .tx [hi a, lo a] .ok, .tx [hi b, lo b] .ok] .high s.rst rest s.timer

/-- RAMWR in format WP, MADCTL and COLMOD in format W1 (rules R83, R86, R122, R124, R125). -/
def Obligations.ParameterCommandsComplete : Prop :=
  ∀ (s : State) (c : Word) (q : Byte) (rest : List BusReply), s.busy = false → s.replies = List.replicate 2 .ok ++ rest →
    CompletesWith s (.ramwr c) [.dc false, .tx [0x2C] .ok, .dc true, .tx [hi c, lo c] .ok] .high s.rst rest s.timer
    ∧ CompletesWith s (.madctl q) [.dc false, .tx [0x36] .ok, .dc true, .tx [q] .ok] .high s.rst rest s.timer
    ∧ CompletesWith s (.colmod q) [.dc false, .tx [0x3A] .ok, .dc true, .tx [q] .ok] .high s.rst rest s.timer

/-- The opcode tables: the eight values the source fixes, in both tables and pairwise distinct; the fifteen common opcodes are in both, the
newer table holds nothing else, and of the older-only ones the older table holds what the configuration gives, with its bytes (rules R89, R90,
R126, R139, R141). -/
def Obligations.OpcodeTables : Prop :=
  ∀ p : Params,
    [Mnemonic.swreset, .slpout, .dispon, .caset, .raset, .ramwr, .madctl, .colmod].map (opv p)
      = [some 0x01, some 0x11, some 0x29, some 0x2A, some 0x2B, some 0x2C, some 0x36, some 0x3A]
    ∧ distinctOn p [.swreset, .slpout, .dispon, .caset, .raset, .ramwr, .madctl, .colmod] = true
    ∧ (∀ m ∈ [Mnemonic.swreset, .slpin, .slpout, .ptlon, .noron, .invoff, .invon, .dispoff, .dispon, .caset, .raset, .ramwr, .ramrd,
        .madctl, .colmod], inTable p m = true)
    ∧ (p.gen = .newer → ∀ m, inTable p m = true →
        m ∈ [Mnemonic.swreset, .slpin, .slpout, .ptlon, .noron, .invoff, .invon, .dispoff, .dispon, .caset, .raset, .ramwr, .ramrd,
          .madctl, .colmod])
    ∧ (p.gen = .older →
        [Mnemonic.frmctr1, .frmctr2, .frmctr3, .invctr, .pwctr1, .pwctr2, .pwctr3, .pwctr4, .pwctr5, .vmctr1, .gmctrp1, .gmctrn1].map (opv p)
          = [p.olderOnly.frmctr1, p.olderOnly.frmctr2, p.olderOnly.frmctr3, p.olderOnly.invctr, p.olderOnly.pwctr1, p.olderOnly.pwctr2,
             p.olderOnly.pwctr3, p.olderOnly.pwctr4, p.olderOnly.pwctr5, p.olderOnly.vmctr1, p.olderOnly.gmctrp1, p.olderOnly.gmctrn1]
        ∧ ∀ k, opv p (.further k) = p.olderOnly.further[k]?)

/-! ### Micro-operations -/

/-- WRITE_COMMAND(m, ps): the selector always driven low, the opcode alone, and only where there are parameters the selector high
and all of them in one transmission (rule R151). -/
def Obligations.WriteCommandCompletes : Prop :=
  ∀ (s : State) (m : Mnemonic) (ps : List Byte) (rest : List BusReply), s.busy = false → inTable s.params m = true →
    s.replies = List.replicate (commandTx ps) .ok ++ rest →
    CompletesWith s (.writeCommand m ps) (commandEvents (opByte s.params m) ps) (if ps.isEmpty then .low else .high) s.rst rest s.timer

/-- Every wire command and micro-operation that transmits stops at its failed transmission, whichever it is, with no later event and no `RET`
(rules R111, R151, R153, R158, R212, R241, R242; run alone: log entries 11, 12). The opcode transmission of any wire command of the table: no high
drive, no parameter and no settle delay; its parameter transmission, and each of the two words of CASET and RASET; both transmissions of
WRITE_COMMAND; WRITE_DATA's one; each of the six of SET_ADDRESS_WINDOW. -/
def Obligations.WireAndMicroFailure : Prop :=
  ∀ (s : State) (e : TransportError) (rest : List BusReply), s.busy = false →
    (s.replies = .err e :: rest →
      (∀ (i : Instr) (m : Mnemonic) (ps : List Byte), i.wireForm = some (m, ps) → inTable s.params m = true →
        FailsWith s i [.dc false, .tx [opByte s.params m] (.err e)] .low rest s.timer)
      ∧ (∀ (m : Mnemonic) (ps : List Byte), inTable s.params m = true →
        FailsWith s (.writeCommand m ps) [.dc false, .tx [opByte s.params m] (.err e)] .low rest s.timer)
      ∧ (∀ bytes : List Byte, bytes ≠ [] → FailsWith s (.writeData bytes) [.tx bytes (.err e)] s.dc rest s.timer))
    ∧ (s.replies = .ok :: .err e :: rest →
      (∀ (i : Instr) (m : Mnemonic) (ps : List Byte), i.wireForm = some (m, ps) → inTable s.params m = true → ps ≠ [] →
        m ≠ .caset → m ≠ .raset →
        FailsWith s i [.dc false, .tx [opByte s.params m] .ok, .dc true, .tx ps (.err e)] .high rest s.timer)
      ∧ (∀ (m : Mnemonic) (ps : List Byte), inTable s.params m = true → ps ≠ [] →
        FailsWith s (.writeCommand m ps) [.dc false, .tx [opByte s.params m] .ok, .dc true, .tx ps (.err e)] .high rest s.timer)
      ∧ (∀ a b : Word,
        FailsWith s (.caset a b) [.dc false, .tx [0x2A] .ok, .dc true, .tx [hi a, lo a] (.err e)] .high rest s.timer
        ∧ FailsWith s (.raset a b) [.dc false, .tx [0x2B] .ok, .dc true, .tx [hi a, lo a] (.err e)] .high rest s.timer))
    ∧ (s.replies = .ok :: .ok :: .err e :: rest → ∀ a b : Word,
        FailsWith s (.caset a b) [.dc false, .tx [0x2A] .ok, .dc true, .tx [hi a, lo a] .ok, .tx [hi b, lo b] (.err e)] .high rest s.timer
        ∧ FailsWith s (.raset a b) [.dc false, .tx [0x2B] .ok, .dc true, .tx [hi a, lo a] .ok, .tx [hi b, lo b] (.err e)] .high rest
            s.timer)
    ∧ (∀ (x0 y0 x1 y1 : Word) (n : Nat), n < 6 → s.replies = List.replicate n .ok ++ .err e :: rest →
        FailsWith s (.setAddressWindow x0 y0 x1 y1) (errEvents (addressWindow s.params x0 y0 x1 y1) n e)
          (if n = 0 ∨ n = 3 then .low else .high) rest s.timer)

/-- START_DATA drives the selector high, whatever it was; it uses no word of the bus or the delay service, and nothing reaches the panel or
changes what is known of it (rule R152). That it runs on its own, with no `RET`, is the model's choice (log entry 12). -/
def Obligations.StartDataCompletes : Prop :=
  ∀ s : State, s.busy = false →
    CompletesWith s .startData [.dc true] .high s.rst s.replies s.timer
    ∧ ∀ t, exec .startData s = .next t → t.panel = s.panel ∧ t.received = s.received

/-- WRITE_DATA of at least one byte is one transmission, the selector left as it is (rule R153). -/
def Obligations.WriteDataCompletes : Prop :=
  ∀ (s : State) (bytes : List Byte) (rest : List BusReply), s.busy = false → bytes ≠ [] → s.replies = .ok :: rest →
    CompletesWith s (.writeData bytes) [.tx bytes .ok] s.dc s.rst rest s.timer

/-- WRITE_DATA of no byte is no instruction: it is refused, and it is the one ill-formed instruction (rule R153). -/
def Obligations.EmptyWriteDataRefused : Prop :=
  ∀ (s : State) (i : Instr), (i.wellFormed = false ↔ i = .writeData [])
    ∧ (i.wellFormed = false → exec i s = .refused .emptyTransmission)

/-- WRITE_WORD(v): exactly two bytes, `v >> 8` then `v & 0xFF`, the selector left as it is, for every `v`; the transmission may fail (rule R154).
That they go in one transmission is the spec's own decision D3 (marked so in rule R154), and that the micro-operation runs on its own, with no
`RET`, is the model's choice (log entry 12). -/
def Obligations.WriteWordCompletes : Prop :=
  ∀ (s : State) (v : Word) (rest : List BusReply), s.busy = false →
    ∃ h l : Byte, h.toNat = v.toNat / 256 ∧ l.toNat = v.toNat % 256
      ∧ (s.replies = .ok :: rest → CompletesWith s (.writeWord v) [.tx [h, l] .ok] s.dc s.rst rest s.timer)
      ∧ (∀ e, s.replies = .err e :: rest → ∃ t, exec (.writeWord v) s = .next t ∧ t.busy = false
          ∧ t.trace = s.trace ++ [.tx [h, l] (.err e)] ∧ t.dc = s.dc ∧ t.replies = rest)

/-- HARD_RESET drives the reset line high, low, high, whatever its level was, and touches neither the bus nor the selector
(rule R156). -/
def Obligations.HardResetCompletes : Prop :=
  ∀ s : State, s.busy = false → CompletesWith s .hardReset [.rst true, .rst false, .rst true] s.dc .high s.replies s.timer

/-- DELAY_MS(n) is one delay event for every n, 0 included, and nothing else (rule R157); a delay that is not over holds the block with
nothing recorded, and ends when the delay service says so (rules R258, R264; log entry 27). -/
def Obligations.DelayCompletes : Prop :=
  ∀ (s : State) (n : Nat) (later : List DelayReply), s.busy = false →
    (s.timer = .returned :: later →
      CompletesWith s (.delayMs n) [.delay n] s.dc s.rst s.replies later
      ∧ ∀ t, exec (.delayMs n) s = .next t → minMillis t.trace = minMillis s.trace + n ∧ t.panel = s.panel)
    ∧ (s.timer = .wait :: .returned :: later →
      ∃ t u, exec (.delayMs n) s = .next t ∧ t.busy = true ∧ t.trace = s.trace ∧ t.timer = .returned :: later
        ∧ step t = .next u ∧ Completed s u [.delay n] s.replies later)

/-- SET_ADDRESS_WINDOW sends the four bounds as given, inverted or not, columns first (rules R212, R213). That the window latches hold them
afterwards is the model's choice: rule R30 calls them transient (log entry 6). Where the panel stands under its premises in a known frame, it retains
the window if both ranges are in order and inside the panel (rule R60); after an inverted or outside one, or in an unknown frame, only the
standing premises and the frame are known (rules R37, R54, R296, U4); where a premise fails, nothing (rule R291). That the other registers stay and the
cells are forgotten, that the operation runs alone, and what is forgotten, is the model's choice (log entries 12, 18). -/
def Obligations.AddressWindowCompletes : Prop :=
  ∀ (s : State) (x0 y0 x1 y1 : Word) (rest : List BusReply), s.busy = false → s.replies = List.replicate 6 .ok ++ rest →
    ∃ t, exec (.setAddressWindow x0 y0 x1 y1) s = .next t ∧ Completed s t (windowEvents x0 y0 x1 y1) rest s.timer
      ∧ t.dc = .high ∧ t.rst = s.rst
      ∧ t.latch = { s.latch with x0 := x0, y0 := y0, x1 := x1, y1 := y1 }
      ∧ (s.panel.cfg = .ok → s.panel.calibrated = true →
        let obscured : Panel :=
          { Panel.blank .ok with calibrated := true, wordCells := s.panel.wordCells, frame := s.panel.frame }
        (∀ f, s.panel.frame = some f →
          t.panel =
            if (x0.toNat ≤ x1.toNat ∧ x1.toNat < (frameSize s.params f).width)
                ∧ y0.toNat ≤ y1.toNat ∧ y1.toNat < (frameSize s.params f).height then
              { s.panel with columns := some ⟨x0, x1⟩, rows := some ⟨y0, y1⟩, fm := [] }
            else obscured)
        ∧ (s.panel.frame = none → t.panel = obscured))
      ∧ (s.panel.cfg ≠ .ok ∨ s.panel.calibrated = false → t.panel = Panel.blank s.panel.cfg)

/-! ### INIT -/

/-- INIT with every transmission answered `ok` performs the eight steps of rule R179 in order and returns `Ok` (rules R179, R185,
R189). -/
def Obligations.InitCompletes : Prop :=
  ∀ (s : State) (l : List CfgEntry) (rest : List BusReply) (later : List DelayReply), s.busy = false →
    s.params.configuration = some l → (∀ e ∈ l, inTable s.params e.mnemonic = true) →
    s.replies = List.replicate (8 + (l.map fun e => commandTx e.params).sum) .ok ++ rest →
    s.timer = List.replicate 3 .returned ++ later →
    ∃ t, exec .init s = .next t
      ∧ Completed s t
          ([.rst true, .rst false, .rst true,
            .dc false, .tx [0x01] .ok, .delay s.params.tSwreset,
            .dc false, .tx [0x11] .ok, .delay s.params.tSlpout]
           ++ l.flatMap (fun e => commandEvents (opByte s.params e.mnemonic) e.params)
           ++ [.dc false, .tx [opByte s.params (if s.cfg.inv then .invon else .invoff)] .ok,
               .dc false, .tx [0x36] .ok,
               .dc true, .tx [s.params.madctlInitBase ||| (if s.cfg.rgb then 0x00 else 0x08)] .ok,
               .dc false, .tx [0x3A] .ok, .dc true, .tx [s.params.colmodParam] .ok,
               .dc false, .tx [0x29] .ok, .delay s.params.tDispon, .ret .ok])
          rest later
      ∧ t.rst = .high ∧ t.dc = .low ∧ t.latch = s.latch ∧ t.panel.cfg = .ok

/-- Whatever the bus answers and whatever was done before, an accepted INIT begins with the reset pulse high, low, high, before any
transmission (rules R156, R172, R188). -/
def Obligations.InitPulsesResetFirst : Prop :=
  ∀ (s : State) (l : List CfgEntry), s.busy = false → s.params.configuration = some l → admissible s.params l = true →
    ∃ t more, exec .init s = .next t ∧ t.rst = .high
      ∧ t.trace = s.trace ++ [.rst true, .rst false, .rst true, .dc false] ++ more

/-- The result of INIT. Where its transmission number n+1 is the first to fail: the events up to and including it, `RET(Err e)`, and
nothing else; no further answer is used; the levels as last driven, the reset line high; the panel unknown. Where none fails: all the
events, then `RET(Ok)` (rule R185; also R189, R242, R247). -/
def Obligations.InitResult : Prop :=
  ∀ (s : State) (l : List CfgEntry) (rest : List BusReply) (later : List DelayReply), s.busy = false →
    s.params.configuration = some l → admissible s.params l = true →
    (∀ n e, n < txCount (initProgram s.params s.cfg l) → s.replies = List.replicate n .ok ++ .err e :: rest →
      s.timer = List.replicate (delayCount (beforeTx (initProgram s.params s.cfg l) n)) .returned ++ later →
      ∃ t, exec .init s = .next t ∧ t.busy = false
        ∧ t.trace = s.trace ++ errEvents (initProgram s.params s.cfg l) n e ++ [.ret (.err e)]
        ∧ t.replies = rest ∧ t.timer = later ∧ t.cfg = s.cfg ∧ t.rst = .high
        ∧ t.dc = dcAfter (beforeTx (initProgram s.params s.cfg l) n) s.dc
        ∧ t.panel.cfg = .unknown ∧ t.panel.fm = [])
    ∧ (s.replies = List.replicate (txCount (initProgram s.params s.cfg l)) .ok ++ rest →
      s.timer = List.replicate 3 .returned ++ later →
      ∃ t, exec .init s = .next t ∧ t.busy = false
        ∧ t.trace = s.trace ++ okEvents (initProgram s.params s.cfg l) ++ [.ret .ok]
        ∧ t.replies = rest ∧ t.timer = later ∧ t.rst = .high ∧ t.dc = dcAfter (initProgram s.params s.cfg l) s.dc)

/-- INIT is refused on GEN_NEWER with no `CFG(GEN_NEWER)`, and where `CFG` names an opcode outside the table (rules R177, R187,
R264). -/
def Obligations.InitRefusals : Prop :=
  ∀ s : State, s.busy = false →
    (s.params.gen = .newer → s.params.cfgNewer = none → exec .init s = .refused .noConfiguration)
    ∧ (∀ l, s.params.configuration = some l → (∃ e ∈ l, inTable s.params e.mnemonic = false) →
        exec .init s = .refused .configurationNotAdmissible)

/-- The counts of INIT in the length n of `CFG`, the number k of entries with parameters and the number b of parameter bytes
(rule R186). -/
def Obligations.InitCounts : Prop :=
  ∀ (p : Params) (c : Cfg) (l : List CfgEntry),
    let evs := okEvents (initProgram p c l)
    let n := l.length
    let k := (l.filter fun e => !e.params.isEmpty).length
    let b := (l.map fun e => e.params.length).sum
    countEvents Event.isRst evs = 3 ∧ countEvents Event.isDelay evs = 3
    ∧ countEvents Event.isTx evs = n + k + 8 ∧ countEvents Event.isDc evs = n + k + 8
    ∧ countEvents (fun e => e == .dc false) evs = n + 6 ∧ countEvents (fun e => e == .dc true) evs = k + 2
    ∧ (wireView evs).length = n + b + 8
    ∧ ((wireView evs).filter fun w => w.1 == .low).length = n + 6
    ∧ ((wireView evs).filter fun w => w.1 == .high).length = b + 2
    ∧ evs.length = 2 * n + 2 * k + 22
    ∧ minMillis evs = p.tSwreset + p.tSlpout + p.tDispon

/-- The state machine of rule R180 walks through exactly the micro-program of rule R179: after k performed events it stands in a state
whose event is the k-th of the program, and when the program is over it is in `done`; the states it can leave for `fail` are those
that transmit. -/
def Obligations.InitStateMachineIsInitProgram : Prop :=
  ∀ (p : Params) (c : Cfg) (l : List CfgEntry),
    (∀ k, (initStateAt l k).event p c l = (initProgram p c l)[k]?)
    ∧ initStateAt l (initProgram p c l).length = .done
    ∧ (∀ st : InitState, st.canFail = true ↔ ∃ bytes, st.event p c l = some (.tx bytes))

/-! ### SET_ORIENTATION -/

/-- SET_ORIENTATION(o) is one write of the memory-access-control register: the orientation's byte unmodified for RGB, with 0x08 OR-ed in for
BGR, for each of the four orientations and both flags (rules R88, R201, R202, R203). The REF bytes are the spec's general knowledge (log entry
21), and that the latch holds the orientation after the return is the model's choice: rule R29 does not keep it (log entry 6). -/
def Obligations.SetOrientationCompletes : Prop :=
  ∀ (s : State) (o : Orientation) (rest : List BusReply), s.busy = false → s.replies = List.replicate 2 .ok ++ rest →
    ∃ t, exec (.setOrientation o) s = .next t
      ∧ Completed s t
          [.dc false, .tx [0x36] .ok, .dc true,
           .tx [match s.cfg.rgb, o with
             | true, .normal => s.params.oriv.normal
             | true, .rotated => s.params.oriv.rotated
             | true, .mirroredA => s.params.oriv.mirroredA
             | true, .mirroredB => s.params.oriv.mirroredB
             | false, .normal => s.params.oriv.normal ||| 0x08
             | false, .rotated => s.params.oriv.rotated ||| 0x08
             | false, .mirroredA => s.params.oriv.mirroredA ||| 0x08
             | false, .mirroredB => s.params.oriv.mirroredB ||| 0x08] .ok,
           .ret .ok] rest s.timer
      ∧ t.dc = .high ∧ t.rst = s.rst ∧ t.latch = { s.latch with ori := o }
      ∧ (∀ a b d sz, s.params = Params.ref a b d sz →
          orientationMadctl s.params s.cfg o = match s.cfg.rgb, o with
            | true, .normal => 0x00
            | true, .rotated => 0x60
            | true, .mirroredA => 0xC0
            | true, .mirroredB => 0xA0
            | false, .normal => 0x08
            | false, .rotated => 0x68
            | false, .mirroredA => 0xC8
            | false, .mirroredB => 0xA8)

/-- The memory-access-control parameter: the orientation's byte in SET_ORIENTATION, `MADCTL_INIT_BASE` in INIT step 6, with bit 3 set
for BGR; for RGB the base is sent as it is, so bit 3 is never cleared, and no other bit is touched (rule R88). -/
def Obligations.ColourOrderBit : Prop :=
  ∀ (p : Params) (c : Cfg) (o : Orientation) (k : Nat),
    (orientationMadctl p c o).getLsbD k = ((oriv p o).getLsbD k || (k == 3 && !c.rgb))
    ∧ (initMadctl p c).getLsbD k = (p.madctlInitBase.getLsbD k || (k == 3 && !c.rgb))

/-- SET_ORIENTATION whose first or second transmission fails (rules R201, R242). -/
def Obligations.SetOrientationFailure : Prop :=
  ∀ (s : State) (o : Orientation) (e : TransportError) (rest : List BusReply), s.busy = false →
    (s.replies = .err e :: rest → ∃ t, exec (.setOrientation o) s = .next t ∧ t.busy = false ∧ t.dc = .low
      ∧ t.trace = s.trace ++ [.dc false, .tx [0x36] (.err e), .ret (.err e)] ∧ t.replies = rest ∧ t.panel.cfg = .unknown)
    ∧ (s.replies = .ok :: .err e :: rest → ∃ t, exec (.setOrientation o) s = .next t ∧ t.busy = false ∧ t.dc = .high
      ∧ t.trace = s.trace ++ [.dc false, .tx [0x36] .ok, .dc true, .tx [orientationMadctl s.params s.cfg o] (.err e), .ret (.err e)]
      ∧ t.replies = rest ∧ t.panel.cfg = .unknown)

/-! ### SET_PIXEL and DRAW -/

/-- SET_PIXEL(x, y, c): the fourteen events of rule R215, for every coordinate and colour, whether or not INIT has run (rules R215, R219). That
the latches hold the operands and the one-by-one window after the return is the model's choice: rules R28 and R30 do not keep them (log
entry 6). -/
def Obligations.SetPixelCompletes : Prop :=
  ∀ (s : State) (x y c : Word) (rest : List BusReply), s.busy = false → s.replies = List.replicate 8 .ok ++ rest →
    ∃ t, exec (.setPixel x y c) s = .next t ∧ Completed s t (pixelEvents x y c ++ [.ret .ok]) rest s.timer
      ∧ t.dc = .high ∧ t.rst = s.rst ∧ t.latch = ⟨x, y, c, s.latch.ori, x, y, x, y⟩

/-- SET_PIXEL on the wire, from any state: the thirteen pairs of rule R216, all of which reach the panel, and the six selector drives 0, 1, 0, 1,
0, 1. -/
def Obligations.SetPixelInterleaving : Prop :=
  ∀ (s t : State) (x y c : Word) (rest : List BusReply), s.busy = false → s.replies = List.replicate 8 .ok ++ rest →
    exec (.setPixel x y c) s = .next t →
    ∃ evs, t.trace = s.trace ++ evs
      ∧ (∀ d, wireFrom d evs
          = [(.low, 0x2A), (.high, hi x), (.high, lo x), (.high, hi x), (.high, lo x),
             (.low, 0x2B), (.high, hi y), (.high, lo y), (.high, hi y), (.high, lo y),
             (.low, 0x2C), (.high, hi c), (.high, lo c)])
      ∧ evs.filter Event.isDc = [.dc false, .dc true, .dc false, .dc true, .dc false, .dc true]
      ∧ t.received = s.received ++ wireFrom s.dc evs

/-- SET_PIXEL whose transmission n+1 of eight is the first to fail: the events up to and including it, `RET(Err e)`; the selector is
low for the first, fourth and seventh and high otherwise (rule R217). -/
def Obligations.SetPixelAbortsAtFirstFailure : Prop :=
  ∀ (s : State) (x y c : Word) (n : Nat) (e : TransportError) (rest : List BusReply), s.busy = false → n < 8 →
    s.replies = List.replicate n .ok ++ .err e :: rest →
    ∃ t, exec (.setPixel x y c) s = .next t ∧ t.busy = false
      ∧ t.trace = s.trace ++ errEvents (pixelProgram s.params x y c) n e ++ [.ret (.err e)]
      ∧ t.dc = (if n = 0 ∨ n = 3 ∨ n = 6 then .low else .high)
      ∧ t.rst = s.rst ∧ t.cfg = s.cfg ∧ t.replies = rest ∧ t.panel.cfg = .unknown ∧ t.panel.fm = []

/-- DRAW forwards each pixel in order, each in full, and returns `Ok` once; of the empty sequence it is `RET(Ok)` alone (rules R230, R231,
R233). -/
def Obligations.DrawCompletes : Prop :=
  ∀ (s : State) (ps : List Pixel) (rest : List BusReply), s.busy = false →
    s.replies = List.replicate (8 * ps.length) .ok ++ rest →
    ∃ t, exec (.draw ps) s = .next t
      ∧ Completed s t (ps.flatMap (fun q => pixelEvents q.x q.y q.color) ++ [.ret .ok]) rest s.timer
      ∧ t.rst = s.rst ∧ t.dc = (if ps.isEmpty then s.dc else .high) ∧ t.drawing = none

/-- DRAW whose first failing transmission is number n+1 of a pixel: the pixels before it complete, that pixel up to and including the
failed transmission, `RET(Err e)`, and no event for any pixel after it (rule R232). -/
def Obligations.DrawStopsAtFirstFailure : Prop :=
  ∀ (s : State) (before after : List Pixel) (q : Pixel) (n : Nat) (e : TransportError) (rest : List BusReply), s.busy = false →
    n < 8 → s.replies = List.replicate (8 * before.length + n) .ok ++ .err e :: rest →
    ∃ t, exec (.draw (before ++ q :: after)) s = .next t ∧ t.busy = false ∧ t.drawing = none
      ∧ t.trace = s.trace ++ before.flatMap (fun r => pixelEvents r.x r.y r.color)
          ++ errEvents (pixelProgram s.params q.x q.y q.color) n e ++ [.ret (.err e)]
      ∧ t.replies = rest ∧ t.panel.cfg = .unknown

/-- The two generations behave alike in SET_ORIENTATION and SET_PIXEL, whatever the bus answers (rule R139). -/
def Obligations.GenerationsAgree : Prop :=
  ∀ (s t u : State) (g : Generation) (i : Instr),
    (∃ o, i = .setOrientation o) ∨ (∃ x y c, i = .setPixel x y c) →
    exec i s = .next t → exec i { s with params := { s.params with gen := g } } = .next u →
    u = { t with params := { t.params with gen := g } }

/-! ### The environment: what is known of the panel -/

/-- Under the premises of rule R66 a SET_PIXEL that returns `Ok` makes the cell (x, y) known to hold c and changes no other known cell; where a
premise fails, nothing is known of any cell. Under the same premises a DRAW that returns `Ok` leaves every location of its sequence with the colour
given last and every other cell as it was (rules R66, R233); where a pixel before was outside the panel, the last pixels inside it still are. The premises
are those of rule R66 and of rules R177 and R183 (log entry 18). -/
def Obligations.PixelWriteEffect : Prop :=
  (∀ (s : State) (x y c : Word) (rest : List BusReply), s.busy = false → s.replies = List.replicate 8 .ok ++ rest →
    ∃ t, exec (.setPixel x y c) s = .next t
      ∧ (s.panel.cfg = .ok → s.panel.calibrated = true → s.panel.wordCells = true → inFrame s.params s.panel.frame x y = true →
          t.cell x y = some c ∧ (∀ x' y', (x', y') ≠ (x, y) → t.cell x' y' = s.cell x' y')
          ∧ t.panel.columns = some ⟨x, x⟩ ∧ t.panel.rows = some ⟨y, y⟩)
      ∧ ((s.panel.cfg ≠ .ok ∨ s.panel.calibrated = false ∨ s.panel.wordCells = false ∨ inFrame s.params s.panel.frame x y = false) →
          ∀ x' y', t.cell x' y' = none))
  ∧ (∀ (s : State) (ps : List Pixel) (rest : List BusReply), s.busy = false → s.replies = List.replicate (8 * ps.length) .ok ++ rest →
    ∃ t, exec (.draw ps) s = .next t
      ∧ (s.panel.cfg = .ok → s.panel.calibrated = true → s.panel.wordCells = true →
          ((∀ q ∈ ps, inFrame s.params s.panel.frame q.x q.y = true) →
            ∀ x y, t.cell x y = match lastColour ps x y with
              | some c => some c
              | none => s.cell x y)
          ∧ (∀ before q after, ps = before ++ q :: after → inFrame s.params s.panel.frame q.x q.y = true →
              (∀ r ∈ after, inFrame s.params s.panel.frame r.x r.y = true ∧ (r.x, r.y) ≠ (q.x, q.y)) →
              t.cell q.x q.y = some q.color)))

/-- Whatever the bus answers, no instruction but SET_PIXEL and DRAW makes any cell of the frame memory known to hold anything new, SET_PIXEL(x, y,
c) none but the cell (x, y) with c, and DRAW none but a cell of its list with a colour the list gives it; and the same of a step of an operation in
progress, which has its pixel in the latches and the pixels to come in the adapter's list (rules R36, R66, R230; the memory part of the
frame). -/
def Obligations.OnlyPixelsReachMemory : Prop :=
  (∀ (s t : State) (i : Instr), exec i s = .next t → ∀ k v, t.panel.fm.read k = some v → s.panel.fm.read k ≠ some v →
    (∃ x y, i = .setPixel x y v ∧ k = cellKey x y) ∨ (∃ ps, i = .draw ps ∧ ∃ q ∈ ps, k = cellKey q.x q.y ∧ v = q.color))
  ∧ (∀ s t : State, s.busy = true → step s = .next t → ∀ k v, t.panel.fm.read k = some v → s.panel.fm.read k ≠ some v →
    (s.op = .setPixel ∧ k = cellKey s.latch.x s.latch.y ∧ v = s.latch.color)
    ∨ (∃ q ∈ s.drawing.getD [], k = cellKey q.x q.y ∧ v = q.color))

/-- The ghost `panel_cfg` is `ok` after an INIT that returns `Ok`, `unknown` after any host operation that returns `Err`, and `never` after NEW;
SET_ORIENTATION, SET_PIXEL and DRAW that return `Ok` leave it as it was (rule R40): of an operation that ends at once, and of one that was held and
ends in a later step. The trace's last event says what was returned. -/
def Obligations.PanelCfgFollowsResults : Prop :=
  (∀ (s t : State) (i : Instr), i.isHostOperation = true → exec i s = .next t → t.busy = false →
    (∀ r g, i = .new r g → t.panel.cfg = .never)
    ∧ (∀ e, t.trace.getLast? = some (.ret (.err e)) → t.panel.cfg = .unknown)
    ∧ (t.trace.getLast? = some (.ret .ok) → t.panel.cfg = if i = .init then .ok else s.panel.cfg))
  ∧ (∀ s t : State, s.busy = true → s.op.isHost = true → step s = .next t → t.busy = false →
    (∀ e, t.trace.getLast? = some (.ret (.err e)) → t.panel.cfg = .unknown)
    ∧ (t.trace.getLast? = some (.ret .ok) → t.panel.cfg = if s.op = .init then .ok else s.panel.cfg))

/-- What SET_ORIENTATION(o) leaves of the panel, at once or after it was held, when it returns `Ok`: under the premises of rules R66 (a) and R177
the memory-access-control register holds the orientation's byte and the coordinates are those of o (rules R37, R67, R201, R203), and nothing is known
of the window and the cells (rules R67, R204, log entry 18); where a premise fails, nothing is known at all (rule R291). An INIT that follows and
returns `Ok` loses the orientation: the register holds INIT's byte, and the panel is in the NORMAL orientation where the two bytes are equal (rules
R188, R203, R297); with an empty `CFG`, another than the panel requires, one with an entry that owes a settle delay or is sleep-in, or opcodes that
collide, nothing is known (rules R141, R177, R292, U6). That the panel requires one sequence, and which entries it may have, is how the model reads
these rules (log entry 18). -/
def Obligations.OrientationRegister : Prop :=
  (∀ (s t : State) (o : Orientation),
    exec (.setOrientation o) s = .next t
      ∨ (s.Inv ∧ s.busy = true ∧ s.op = .setOrientation ∧ s.latch.ori = o ∧ step s = .next t) →
    t.busy = false → t.trace.getLast? = some (.ret .ok) →
    (s.panel.cfg = .ok → s.panel.calibrated = true →
      t.panel.cfg = .ok ∧ t.panel.calibrated = true
      ∧ t.panel.madctl = some (oriv s.params o ||| (if s.cfg.rgb then 0x00 else 0x08)) ∧ t.panel.frame = some (.oriented o)
      ∧ t.panel.columns = none ∧ t.panel.rows = none ∧ t.panel.fm = [])
    ∧ (s.panel.cfg ≠ .ok ∨ s.panel.calibrated = false → t.panel = Panel.blank s.panel.cfg))
  ∧ (∀ (s t u : State) (o : Orientation), exec (.setOrientation o) s = .next t → t.busy = false →
    exec .init t = .next u → u.busy = false → u.trace.getLast? = some (.ret .ok) →
    (SendsRequired s.params →
      u.panel.madctl = some (s.params.madctlInitBase ||| (if s.cfg.rgb then 0x00 else 0x08))
      ∧ (s.params.oriv.normal = s.params.madctlInitBase → u.panel.frame = some (.oriented .normal)))
    ∧ (¬ SendsRequired s.params → u.panel = Panel.blank .ok))

/-- What an INIT that returns `Ok` with the sequence the panel requires leaves established in it: awake, the settings of step 4 written, the
polarity by `cfg.inv`, the colour order by `cfg.rgb`, the pixel format, the display on; of the window and the frame memory nothing (rule R282). With
another or an empty `CFG` (rule R177), one whose entry owes a settle delay or is sleep-in (rule R292, U6), or opcodes that collide (rule R141), nothing
is claimed. While an INIT is held, from its first step or later, nothing is known but, with that sequence and `panel_cfg` ok from an INIT before, that
the panel is asleep from the software reset until sleep-out is sent (rules R177, R262, R281, R285, R291). That the panel requires one sequence, which entries it may have, and what is known while INIT runs, is how the model
reads these rules (log entry 18); that a sleep-out not yet answered has not reached the panel is its choice (log entry 27). -/
def Obligations.InitEstablishes : Prop :=
  ∀ s t : State, exec .init s = .next t ∨ (s.Inv ∧ s.busy = true ∧ s.op = .init ∧ step s = .next t) →
    (t.busy = false → t.trace.getLast? = some (.ret .ok) →
      (SendsRequired s.params →
        t.panel.cfg = .ok ∧ t.panel.awake = some true ∧ t.panel.displayOn = some true
        ∧ t.panel.settings = s.params.configuration ∧ t.panel.polarity = some s.cfg.inv
        ∧ t.panel.madctl = some (s.params.madctlInitBase ||| (if s.cfg.rgb then 0x00 else 0x08))
        ∧ t.panel.pixelFormat = some s.params.colmodParam
        ∧ t.panel.columns = none ∧ t.panel.rows = none ∧ t.panel.fm = [])
      ∧ (¬ SendsRequired s.params → t.panel = Panel.blank .ok))
    ∧ (t.busy = true →
      (SendsRequired s.params → s.panel.cfg = .ok →
        t.panel = { Panel.blank .ok with awake := if 5 ≤ t.upc ∧ t.upc < 8 then some false else none })
      ∧ (¬ SendsRequired s.params ∨ s.panel.cfg ≠ .ok → t.panel = Panel.blank s.panel.cfg))

/-- Where the panel stands under its premises, each wire command run on its own has on it the effect its rule gives: the polarity, the whole
memory-access-control byte (whose mapping is then unknown), the pixel format, leaving sleep, the display on, a range of the window inside the
panel; after SWRESET it is asleep and nothing else is known; after RAMWR into a one-pixel window, in the pixel format of INIT, its registers are as
before (rules R111, R113, R116, R117, R119 to R122, R124, R125, R262). After a range that is inverted or outside the panel, or RAMWR into another
window or in another pixel format, only the standing premises and the frame are known (rules R65, R183, U4, U10); after a command that no operation issues or that only the older table holds, nothing (rules R112, R126, R140).
That these run alone, that the registers a rule does not name stay as they were, and what is forgotten, is the model's choice (log entries 11,
18). -/
def Obligations.WireCommandPanelEffects : Prop :=
  ∀ (s : State) (f : Frame) (a b : Word) (q : Byte) (rest : List BusReply) (later : List DelayReply), s.busy = false →
    s.panel.cfg = .ok → s.panel.calibrated = true → s.panel.frame = some f → s.replies = List.replicate 3 .ok ++ rest →
    s.timer = .returned :: later →
    let obscured : Panel := { Panel.blank .ok with calibrated := true, wordCells := s.panel.wordCells, frame := some f }
    (∃ t, exec .invoff s = .next t ∧ t.panel = { s.panel with polarity := some false, fm := [] })
    ∧ (∃ t, exec .invon s = .next t ∧ t.panel = { s.panel with polarity := some true, fm := [] })
    ∧ (∃ t, exec .slpout s = .next t ∧ t.panel = { s.panel with awake := some true, fm := [] })
    ∧ (∃ t, exec .dispon s = .next t ∧ t.panel = { s.panel with displayOn := some true, fm := [] })
    ∧ (∃ t, exec .swreset s = .next t ∧ t.panel = { Panel.blank .unknown with awake := some false })
    ∧ (∃ t, exec (.colmod q) s = .next t
        ∧ t.panel = { s.panel with pixelFormat := some q, wordCells := q == s.params.colmodParam, fm := [] })
    ∧ (∃ t, exec (.madctl q) s = .next t
        ∧ t.panel = { s.panel with madctl := some q, frame := none, columns := none, rows := none, fm := [] })
    ∧ (∃ t, exec (.caset a b) s = .next t
        ∧ t.panel = if a.toNat ≤ b.toNat ∧ b.toNat < (frameSize s.params f).width then { s.panel with columns := some ⟨a, b⟩, fm := [] }
          else obscured)
    ∧ (∃ t, exec (.raset a b) s = .next t
        ∧ t.panel = if a.toNat ≤ b.toNat ∧ b.toNat < (frameSize s.params f).height then { s.panel with rows := some ⟨a, b⟩, fm := [] }
          else obscured)
    ∧ (∃ t, exec (.ramwr a) s = .next t
        ∧ (s.panel.wordCells = true → (∃ x y, s.panel.columns = some ⟨x, x⟩ ∧ s.panel.rows = some ⟨y, y⟩) →
            t.panel = { s.panel with fm := [] })
        ∧ ((s.panel.wordCells = false ∨ ¬ ∃ x y, s.panel.columns = some ⟨x, x⟩ ∧ s.panel.rows = some ⟨y, y⟩) → t.panel = obscured))
    ∧ (∀ (i : Instr) (m : Mnemonic) (ps : List Byte), i.wireForm = some (m, ps) → inTable s.params m = true →
        m ∈ [Mnemonic.slpin, .ptlon, .noron, .dispoff, .ramrd, .frmctr1, .frmctr2, .frmctr3, .invctr, .pwctr1, .pwctr2, .pwctr3, .pwctr4,
          .pwctr5, .vmctr1, .gmctrp1, .gmctrn1] →
        ∃ t, exec i s = .next t ∧ t.panel = Panel.blank .unknown)

/-- Of a failed transmission some prefix reached the panel, from none to all; of every transmission before it all, under the selector level
present while its bytes moved; and the block is idle, its lines at the levels last driven, after the failure's events and `RET(Err e)` for a host
operation: for every instruction that is accepted and each of its transmissions, and for DRAW for each transmission of each pixel (rules R62, R158,
R241, R242, R243). -/
def Obligations.FailedTransmissionDeliversPrefix : Prop :=
  (∀ (s : State) (i : Instr) (n : Nat) (e : TransportError) (rest : List BusReply) (later : List DelayReply), s.busy = false →
    i.acceptable s.params = true → n < txCount (s.programOf i) → s.replies = List.replicate n .ok ++ .err e :: rest →
    s.timer = List.replicate (delayCount (beforeTx (s.programOf i) n)) .returned ++ later →
    ∃ t part, exec i s = .next t ∧ t.busy = false
      ∧ t.trace = s.trace ++ errEvents (s.programOf i) n e ++ (if i.isHostOperation then [.ret (.err e)] else [])
      ∧ t.dc = dcAfter (beforeTx (s.programOf i) n) s.dc ∧ t.rst = rstAfter (beforeTx (s.programOf i) n) s.rst
      ∧ t.replies = rest ∧ t.timer = later
      ∧ part <+: (txAt (s.programOf i) n).map (fun b => (t.dc, b))
      ∧ t.received = s.received ++ wireFrom s.dc (okEvents (beforeTx (s.programOf i) n)) ++ part)
  ∧ (∀ (s : State) (before after : List Pixel) (q : Pixel) (n : Nat) (e : TransportError) (rest : List BusReply), s.busy = false →
    n < 8 → s.replies = List.replicate (8 * before.length + n) .ok ++ .err e :: rest →
    ∃ t part, exec (.draw (before ++ q :: after)) s = .next t ∧ t.busy = false ∧ t.drawing = none
      ∧ t.trace = s.trace ++ before.flatMap (fun r => pixelEvents r.x r.y r.color)
          ++ errEvents (pixelProgram s.params q.x q.y q.color) n e ++ [.ret (.err e)]
      ∧ t.dc = (if n = 0 ∨ n = 3 ∨ n = 6 then .low else .high) ∧ t.rst = s.rst ∧ t.replies = rest ∧ t.timer = s.timer
      ∧ part <+: (txAt (pixelProgram s.params q.x q.y q.color) n).map (fun b => (t.dc, b))
      ∧ t.received = s.received ++ wireFrom s.dc (before.flatMap (fun r => pixelEvents r.x r.y r.color)
          ++ okEvents (beforeTx (pixelProgram s.params q.x q.y q.color) n)) ++ part)

/-! ### Frames over all instructions and all answers of the bus -/

/-- No instruction and no step changes a parameter, and none but NEW changes the control register, which NEW writes from its arguments; none touches
the requests the host has still to issue but the one it takes (rules R23, R33, R45, R71). -/
def Obligations.ConfigurationIsFixed : Prop :=
  (∀ (s t : State) (i : Instr), exec i s = .next t →
    t.params = s.params ∧ t.requests = s.requests ∧ ((∀ r g, i ≠ .new r g) → t.cfg = s.cfg)
    ∧ (∀ r g, i = .new r g → t.cfg = ⟨r, g⟩))
  ∧ (∀ s t : State, step s = .next t →
    t.params = s.params ∧ t.requests = (if s.busy then s.requests else s.requests.tail)
    ∧ (s.busy = true → t.cfg = s.cfg) ∧ (s.busy = false → (∀ r g, s.requests.head? ≠ some (.new r g)) → t.cfg = s.cfg))

/-- The reset line is changed by NEW, INIT and HARD_RESET alone, and a completed, failed or held INIT and a HARD_RESET leave it high; of a step of an
operation in progress the same, from the position it is at (rules R27, R45, R189). -/
def Obligations.ResetLineFrame : Prop :=
  (∀ (s t : State) (i : Instr), exec i s = .next t →
    ((i = .init ∨ i = .hardReset) → t.rst = .high)
    ∧ ((∀ r g, i ≠ .new r g) → i ≠ .init → i ≠ .hardReset → t.rst = s.rst))
  ∧ (∀ s t : State, s.Inv → s.busy = true → step s = .next t →
    ((s.op = .init ∨ s.op = .hardReset) → t.rst = if s.upc < 3 then .high else s.rst)
    ∧ (s.op ≠ .init → s.op ≠ .hardReset → t.rst = s.rst))

/-- The selector is left as it is by WRITE_DATA, WRITE_WORD, HARD_RESET and DELAY_MS, and every instruction but those, NEW and
DRAW of nothing leaves it driven; a step of an operation in progress leaves it as it is or driven, and as it is in those four (rules R26, R45, R153,
R154, R156, R157). -/
def Obligations.SelectorFrame : Prop :=
  (∀ (s t : State) (i : Instr), exec i s = .next t →
    let quiet := (∃ bs, i = .writeData bs) ∨ (∃ v, i = .writeWord v) ∨ i = .hardReset ∨ (∃ n, i = .delayMs n) ∨ i = .draw []
    (quiet → t.dc = s.dc) ∧ (¬ quiet → (∀ r g, i ≠ .new r g) → t.dc = .low ∨ t.dc = .high))
  ∧ (∀ s t : State, s.Inv → s.busy = true → step s = .next t →
    (t.dc = s.dc ∨ t.dc = .low ∨ t.dc = .high)
    ∧ ((∃ bs, s.op = .writeData bs) ∨ s.op = .hardReset ∨ (∃ n, s.op = .delayMs n) → t.dc = s.dc))

/-- The operand latches are written by the operation whose operands they are, at acceptance, and by no other instruction (rules R28 to
R30, R45); DRAW writes them once per pixel and never the orientation; a step of an operation in progress writes them only where a DRAW goes on to
another pixel. -/
def Obligations.LatchFrame : Prop :=
  (∀ (s t : State) (i : Instr), exec i s = .next t →
    match i with
    | .new _ _ => True
    | .setPixel x y c => t.latch = ⟨x, y, c, s.latch.ori, x, y, x, y⟩
    | .setOrientation o => t.latch = { s.latch with ori := o }
    | .setAddressWindow x0 y0 x1 y1 => t.latch = { s.latch with x0 := x0, y0 := y0, x1 := x1, y1 := y1 }
    | .draw ps => t.latch = s.latch ∨ ∃ q ∈ ps, t.latch = ⟨q.x, q.y, q.color, s.latch.ori, q.x, q.y, q.x, q.y⟩
    | _ => t.latch = s.latch)
  ∧ (∀ s t : State, s.busy = true → step s = .next t →
    t.latch = s.latch ∨ ∃ q ∈ s.drawing.getD [], t.latch = ⟨q.x, q.y, q.color, s.latch.ori, q.x, q.y, q.x, q.y⟩)

/-- What has been done stays done: every step but that of a NEW only appends to the trace and to what reached the panel (rules R40, R68 (c),
R232). -/
def Obligations.TraceOnlyGrows : Prop :=
  ∀ s t : State, step s = .next t → (s.busy = false → ∀ r g, s.requests.head? ≠ some (.new r g)) →
    s.trace <+: t.trace ∧ s.received <+: t.received

/-! ### The sequencer and the host port -/

/-- While an operation is in progress a presented request has no step: it is held, and the operation goes on (rules R252, U11). That `exec` of one
is refused, where the rule says held, is the model's choice (log entry 13); `step` never asks it. NEW is no request to an existing instance (rule
R93), and WRITE_DATA of nothing is refused as such. -/
def Obligations.RequestHeldWhileBusy : Prop :=
  ∀ (s : State) (i : Instr), s.busy = true → (∀ r g, i ≠ .new r g) → i.wellFormed = true →
    step s = .next s.resume ∧ s.resume.requests = s.requests ∧ exec i s = .refused .requestWhileBusy

/-- An idle block to which no request is presented does nothing: no event without a request (rules R251, R280). -/
def Obligations.IdleBlockIsQuiet : Prop :=
  ∀ s : State, s.busy = false → s.requests = [] → step s = .next s

/-- A step of an idle block is `exec` of the request presented, taken from the host; and the instruction of a table word is presented
and run by the very next step (rules R251, R286). -/
def Obligations.StepRunsThePresentedRequest : Prop :=
  (∀ (s : State) (i : Instr) (rest : List Instr), s.busy = false → s.requests = i :: rest →
    step s = exec i { s with requests := rest })
  ∧ (∀ (s : State) (nbits w : Nat) (i : Instr), decodeTableWord nbits w = some i →
    step (s.withFetchWord nbits w) = exec i { s with busy := false })

/-- A transmission or a delay that its collaborator has not answered holds the operation where it is, in every operation and in DRAW; and once
the collaborators answer, a held operation goes on as if it had never waited: to its end, or to its first failed transmission (rules R22, R158,
R230 to R232, R242, R258, R264). The first clause: SET_PIXEL ends in the very state it would have reached at once. The second: an accepted
instruction is such an operation at its first micro-event. Then, of a step of an operation in progress: it is held again; outside a DRAW it ends; it
fails, in a DRAW too. The last four: a DRAW is held at one of its pixels; and one in progress ends, fails at a later pixel, or is held there. That no
byte of an unanswered transmission has reached the panel yet is the model's choice (log entry 27). -/
def Obligations.UnansweredTransmissionHolds : Prop :=
  (∀ (s : State) (x y c : Word) (n : Nat) (rest : List BusReply), s.busy = false → n < 8 →
    s.replies = List.replicate n .ok ++ .wait :: (List.replicate (8 - n) .ok ++ rest) →
    ∃ t u v, exec (.setPixel x y c) s = .next t ∧ t.busy = true
      ∧ t.trace = s.trace ++ okEvents (beforeTx (pixelProgram s.params x y c) n)
      ∧ t.upc = (beforeTx (pixelProgram s.params x y c) n).length
      ∧ step t = .next u
      ∧ exec (.setPixel x y c) { s with replies := List.replicate 8 .ok ++ rest } = .next v ∧ u = v)
  ∧ (∀ (s : State) (i : Instr) (op : Operation), s.busy = false → i.operation = some op → i.acceptable s.params = true →
    exec i s = step { s with
      latch := i.latched s.latch, busy := true, op := op, upc := 0, mprog := s.programOf i, drawing := none })
  ∧ (∀ (s : State) (pre post : List Micro) (m : Micro) (rest : List BusReply) (later : List DelayReply), s.busy = true →
    s.mprog.drop s.upc = pre ++ m :: post →
    UnansweredAt s pre m rest later →
    ∃ t, step s = .next t ∧ HeldAt s t (okEvents pre) (s.upc + pre.length) rest later
      ∧ t.op = s.op ∧ t.mprog = s.mprog ∧ t.latch = s.latch ∧ t.drawing = s.drawing
      ∧ t.dc = dcAfter pre s.dc ∧ t.rst = rstAfter pre s.rst ∧ t.received = s.received ++ wireFrom s.dc (okEvents pre))
  ∧ (∀ (s : State) (rest : List BusReply) (later : List DelayReply), s.busy = true → s.drawing = none →
    s.replies = List.replicate (txCount (s.mprog.drop s.upc)) .ok ++ rest →
    s.timer = List.replicate (delayCount (s.mprog.drop s.upc)) .returned ++ later →
    ∃ t, step s = .next t
      ∧ Completed s t (okEvents (s.mprog.drop s.upc) ++ (if s.op.isHost then [.ret .ok] else [])) rest later
      ∧ t.latch = s.latch ∧ t.dc = dcAfter (s.mprog.drop s.upc) s.dc ∧ t.rst = rstAfter (s.mprog.drop s.upc) s.rst
      ∧ t.received = s.received ++ wireFrom s.dc (okEvents (s.mprog.drop s.upc)))
  ∧ (∀ (s : State) (n : Nat) (e : TransportError) (rest : List BusReply) (later : List DelayReply), s.busy = true →
    n < txCount (s.mprog.drop s.upc) → s.replies = List.replicate n .ok ++ .err e :: rest →
    s.timer = List.replicate (delayCount (beforeTx (s.mprog.drop s.upc) n)) .returned ++ later →
    ∃ t, step s = .next t ∧ t.busy = false ∧ t.drawing = none ∧ t.latch = s.latch ∧ t.params = s.params ∧ t.cfg = s.cfg
      ∧ t.requests = s.requests ∧ t.replies = rest ∧ t.timer = later
      ∧ t.trace = s.trace ++ errEvents (s.mprog.drop s.upc) n e ++ (if s.op.isHost then [.ret (.err e)] else [])
      ∧ t.dc = dcAfter (beforeTx (s.mprog.drop s.upc) n) s.dc ∧ t.rst = rstAfter (beforeTx (s.mprog.drop s.upc) n) s.rst
      ∧ (s.op.isHost = true → t.panel.cfg = .unknown ∧ t.panel.fm = []))
  ∧ (∀ (s : State) (before after : List Pixel) (q : Pixel) (n : Nat) (rest : List BusReply), s.busy = false → n < 8 →
    s.replies = List.replicate (8 * before.length + n) .ok ++ .wait :: rest →
    ∃ t, exec (.draw (before ++ q :: after)) s = .next t
      ∧ HeldAt s t
          (before.flatMap (fun r => pixelEvents r.x r.y r.color) ++ okEvents (beforeTx (pixelProgram s.params q.x q.y q.color) n))
          (beforeTx (pixelProgram s.params q.x q.y q.color) n).length rest s.timer
      ∧ t.op = .setPixel ∧ t.mprog = pixelProgram s.params q.x q.y q.color ∧ t.drawing = some after)
  ∧ (∀ (s : State) (ps : List Pixel) (rest : List BusReply), s.Inv → s.busy = true → s.drawing = some ps →
    s.replies = List.replicate (txCount (s.mprog.drop s.upc) + 8 * ps.length) .ok ++ rest →
    ∃ t, step s = .next t ∧ t.drawing = none
      ∧ Completed s t
          (okEvents (s.mprog.drop s.upc) ++ ps.flatMap (fun r => pixelEvents r.x r.y r.color) ++ [.ret .ok]) rest s.timer)
  ∧ (∀ (s : State) (before after : List Pixel) (q : Pixel) (n : Nat) (e : TransportError) (rest : List BusReply), s.Inv →
    s.busy = true → s.drawing = some (before ++ q :: after) → n < 8 →
    s.replies = List.replicate (txCount (s.mprog.drop s.upc) + 8 * before.length + n) .ok ++ .err e :: rest →
    ∃ t, step s = .next t ∧ t.busy = false ∧ t.drawing = none ∧ t.replies = rest ∧ t.panel.cfg = .unknown
      ∧ t.trace = s.trace ++ okEvents (s.mprog.drop s.upc) ++ before.flatMap (fun r => pixelEvents r.x r.y r.color)
          ++ errEvents (pixelProgram s.params q.x q.y q.color) n e ++ [.ret (.err e)])
  ∧ (∀ (s : State) (before after : List Pixel) (q : Pixel) (n : Nat) (rest : List BusReply), s.Inv →
    s.busy = true → s.drawing = some (before ++ q :: after) → n < 8 →
    s.replies = List.replicate (txCount (s.mprog.drop s.upc) + 8 * before.length + n) .ok ++ .wait :: rest →
    ∃ t, step s = .next t
      ∧ HeldAt s t
          (okEvents (s.mprog.drop s.upc) ++ before.flatMap (fun r => pixelEvents r.x r.y r.color)
            ++ okEvents (beforeTx (pixelProgram s.params q.x q.y q.color) n))
          (beforeTx (pixelProgram s.params q.x q.y q.color) n).length rest s.timer
      ∧ t.op = .setPixel ∧ t.mprog = pixelProgram s.params q.x q.y q.color ∧ t.drawing = some after)

/-- Running an operation on is repeating rule R22's step, at most once for each micro-event left, once for its end, and fifteen times for each
pixel a DRAW has left (rules R22, R162). -/
def Obligations.ResumeIsRepeatedMicroStep : Prop :=
  ∀ s : State, s.busy = true →
    ∃ k, 1 ≤ k ∧ k ≤ (s.mprog.length - s.upc) + 1 + 15 * (s.drawing.getD []).length
      ∧ s.resume = Nat.iterate State.microStep k s

/-- No step reads the output levels, the latches of an operation in progress, the sequencer's idle registers, the trace or anything known of the
panel: two states, idle or busy, that agree in the parameters, the control register, the environment's data and where the operation in progress
stands answer alike, append the same events and agree again; so the block does not remember a failure, a window or an orientation (rules R26,
R27, R31, R32, R40, R246). A NEW begins an empty trace. -/
def Obligations.NothingButInputsIsRead : Prop :=
  ∀ s t : State, SameInputs s t → SameProgress s t →
    match step s, step t with
    | .next s', .next t' =>
      SameInputs s' t' ∧ SameProgress s' t'
      ∧ (s.busy = false ∧ (∃ r g, s.requests.head? = some (.new r g)) → s'.trace = [] ∧ t'.trace = [])
      ∧ (¬ (s.busy = false ∧ ∃ r g, s.requests.head? = some (.new r g)) →
          ∃ evs, s'.trace = s.trace ++ evs ∧ t'.trace = t.trace ++ evs)
    | .refused a, .refused b => a = b
    | .next _, .refused _ => False
    | .refused _, .next _ => False
    | .fault _, _ => False
    | _, .fault _ => False

/-- No step faults: the one error of the block is an answer to the host (rules R263, R264). A refusal happens only where the spec gives
no meaning: outside the table, no or no admissible configuration, no byte to send, or while busy. -/
def Obligations.StopsAreOnlyTheseRefusals : Prop :=
  ∀ (s : State) (i : Instr), s.busy = false →
    (∃ t, exec i s = .next t)
    ∨ (i = .writeData [] ∧ exec i s = .refused .emptyTransmission)
    ∨ (∃ m, inTable s.params m = false ∧ exec i s = .refused (.opcodeNotInTable m)
        ∧ ((∃ ps, i = .writeCommand m ps) ∨ ∃ ps, i.wireForm = some (m, ps)))
    ∨ (i = .init ∧ s.params.configuration = none ∧ exec i s = .refused .noConfiguration)
    ∨ (i = .init ∧ (∃ l, s.params.configuration = some l ∧ ∃ e ∈ l, inTable s.params e.mnemonic = false)
        ∧ exec i s = .refused .configurationNotAdmissible)

/-! ### Encodings -/

/-- Every wire command of the block's table is decoded from its encoding, whatever follows it that is not a parameter, with every
operand at every value: no bit of an operand is dropped and no opcode is taken for another (rules R62, R81 to R86, R92), in every
table whose opcodes are distinct (rule R141). -/
def Obligations.DecodeEncodeRoundTrip : Prop :=
  ∀ (p : Params) (i : Instr) (ws rest : List WirePair), distinctOn p p.table = true →
    encode p i = some ws → (∀ b r, rest ≠ (.high, b) :: r) → decode p (ws ++ rest) = .ok (i, rest)

/-- What decodes was sent by that instruction and nothing else: the bytes read are its encoding (rules R81, R92). No assumption on the
table. -/
def Obligations.DecodedIsEncoded : Prop :=
  ∀ (p : Params) (ws rest : List WirePair) (i : Instr), decode p ws = .ok (i, rest) →
    ∃ es, encode p i = some es ∧ ws = es ++ rest

/-- Which instructions have a binary form, by name: none of the five host operations and none of the seven micro-operations (rule R93); each of the
fifteen common wire commands in every table; each older-only one exactly where the table holds its own opcode; the opcode with the selector low and
then the parameters of its format with the selector high (rules R80 to R86, R91, R111 to R139). -/
def Obligations.OnlyWireCommandsAreEncoded : Prop :=
  ∀ p : Params,
    (∀ r g, encode p (.new r g) = none) ∧ encode p .init = none ∧ (∀ o, encode p (.setOrientation o) = none)
    ∧ (∀ x y c, encode p (.setPixel x y c) = none) ∧ (∀ ps, encode p (.draw ps) = none)
    ∧ (∀ a b c d, encode p (.setAddressWindow a b c d) = none) ∧ (∀ m ps, encode p (.writeCommand m ps) = none)
    ∧ encode p .startData = none ∧ (∀ bs, encode p (.writeData bs) = none) ∧ (∀ v, encode p (.writeWord v) = none)
    ∧ encode p .hardReset = none ∧ (∀ n, encode p (.delayMs n) = none)
    ∧ encode p .swreset = some [(.low, 0x01)] ∧ encode p .slpout = some [(.low, 0x11)] ∧ encode p .dispon = some [(.low, 0x29)]
    ∧ encode p .invoff = some [(.low, p.common.invoff)] ∧ encode p .invon = some [(.low, p.common.invon)]
    ∧ (∀ a b, encode p (.caset a b) = some [(.low, 0x2A), (.high, hi a), (.high, lo a), (.high, hi b), (.high, lo b)])
    ∧ (∀ a b, encode p (.raset a b) = some [(.low, 0x2B), (.high, hi a), (.high, lo a), (.high, hi b), (.high, lo b)])
    ∧ (∀ c, encode p (.ramwr c) = some [(.low, 0x2C), (.high, hi c), (.high, lo c)])
    ∧ (∀ q, encode p (.madctl q) = some [(.low, 0x36), (.high, q)]) ∧ (∀ q, encode p (.colmod q) = some [(.low, 0x3A), (.high, q)])
    ∧ (∀ ps, encode p (.slpin ps) = some ((.low, p.common.slpin) :: ps.map fun b => (.high, b)))
    ∧ (∀ ps, encode p (.ptlon ps) = some ((.low, p.common.ptlon) :: ps.map fun b => (.high, b)))
    ∧ (∀ ps, encode p (.noron ps) = some ((.low, p.common.noron) :: ps.map fun b => (.high, b)))
    ∧ (∀ ps, encode p (.dispoff ps) = some ((.low, p.common.dispoff) :: ps.map fun b => (.high, b)))
    ∧ (∀ ps, encode p (.ramrd ps) = some ((.low, p.common.ramrd) :: ps.map fun b => (.high, b)))
    ∧ (∀ ps, encode p (.frmctr1 ps) = (opv p .frmctr1).map fun op => (.low, op) :: ps.map fun b => (.high, b))
    ∧ (∀ ps, encode p (.frmctr2 ps) = (opv p .frmctr2).map fun op => (.low, op) :: ps.map fun b => (.high, b))
    ∧ (∀ ps, encode p (.frmctr3 ps) = (opv p .frmctr3).map fun op => (.low, op) :: ps.map fun b => (.high, b))
    ∧ (∀ ps, encode p (.invctr ps) = (opv p .invctr).map fun op => (.low, op) :: ps.map fun b => (.high, b))
    ∧ (∀ ps, encode p (.pwctr1 ps) = (opv p .pwctr1).map fun op => (.low, op) :: ps.map fun b => (.high, b))
    ∧ (∀ ps, encode p (.pwctr2 ps) = (opv p .pwctr2).map fun op => (.low, op) :: ps.map fun b => (.high, b))
    ∧ (∀ ps, encode p (.pwctr3 ps) = (opv p .pwctr3).map fun op => (.low, op) :: ps.map fun b => (.high, b))
    ∧ (∀ ps, encode p (.pwctr4 ps) = (opv p .pwctr4).map fun op => (.low, op) :: ps.map fun b => (.high, b))
    ∧ (∀ ps, encode p (.pwctr5 ps) = (opv p .pwctr5).map fun op => (.low, op) :: ps.map fun b => (.high, b))
    ∧ (∀ ps, encode p (.vmctr1 ps) = (opv p .vmctr1).map fun op => (.low, op) :: ps.map fun b => (.high, b))
    ∧ (∀ ps, encode p (.gmctrp1 ps) = (opv p .gmctrp1).map fun op => (.low, op) :: ps.map fun b => (.high, b))
    ∧ (∀ ps, encode p (.gmctrn1 ps) = (opv p .gmctrn1).map fun op => (.low, op) :: ps.map fun b => (.high, b))

/-- Words written out byte by byte from the spec's encodings decode to the instructions they stand for, in every table whose opcodes are
distinct (rules R111, R120, R121, R122, R124; the example words are the rules' own). -/
def Obligations.WrittenWordsDecode : Prop :=
  ∀ p : Params, distinctOn p p.table = true →
    decode p [(.low, 0x01)] = .ok (.swreset, [])
    ∧ decode p [(.low, 0x2A), (.high, 0x00), (.high, 0x12), (.high, 0x00), (.high, 0x12)] = .ok (.caset 0x0012 0x0012, [])
    ∧ decode p [(.low, 0x2B), (.high, 0x01), (.high, 0x34), (.high, 0x01), (.high, 0x34)] = .ok (.raset 0x0134 0x0134, [])
    ∧ decode p [(.low, 0x2C), (.high, 0xF8), (.high, 0x1F)] = .ok (.ramwr 0xF81F, [])
    ∧ decode p [(.low, 0x36), (.high, 0x68), (.low, 0x11)] = .ok (.madctl 0x68, [(.low, 0x11)])

/-! ### Invariants -/

/-- Every step keeps the sequencer's registers in agreement and what is known of the panel in canonical form, and a configuration that passes
its check passes it ever after (rules R21, R22, R28 to R30, R40, R66, R71, R141). -/
def Obligations.EveryStepKeepsInvariant : Prop :=
  ∀ s t : State, s.Inv → step s = .next t → t.Inv ∧ (s.params.wellFormed = true → t.params.wellFormed = true)

/-- The invariant holds after reset, and the machine there passes the configuration check: the opcodes it issues have distinct bytes and its
`CFG` is admissible (rules R141, R177). -/
def Obligations.ResetHasInvariant : Prop := State.reset.Inv ∧ FramingInv State.reset ∧ State.reset.params.wellFormed = true

/-- In every trace a host can make the block produce, an opcode of the table is sent alone directly after a low drive and nowhere else, the selector is
driven high only directly after an opcode was sent, data bytes are sent only after a high drive, no drive is left without its transmission, and
nothing of a transaction follows its failed transmission: every step keeps this, whatever the bus answers (rules R73, R155, R158, R160, R293). Rule R155
itself is marked derived by the spec. -/
def Obligations.EveryStepKeepsFraming : Prop :=
  ∀ s t : State, FramingInv s → step s = .next t → FramingInv t ∧ (t.busy = false → framed t.params t.trace = true)
end

