-- ==== Sys2Proof/Laws/Decode.lean ====
section
/-! SUPPORT. The decoder's, the encoder's and the configuration check's own lemmas. -/

namespace Sys2Proof

/-- A word is read back from its big-endian bytes. -/
theorem word_hi_lo (v : Word) : word (hi v) (lo v) = v := by
  apply BitVec.eq_of_getLsbD_eq
  intro i hi'
  simp only [word, hi, lo, BitVec.getLsbD_or, BitVec.getLsbD_shiftLeft, BitVec.getLsbD_setWidth, BitVec.getLsbD_ushiftRight,
    BitVec.getLsbD_and]
  interval_cases i <;> simp

@[simp] theorem be16_length (v : Word) : (be16 v).length = 2 := rfl

/-- The parameters of a transaction followed by something that is not a parameter. -/
theorem parametersOf_append (ps : List Byte) (rest : List WirePair) (h : parametersOf rest = []) :
    parametersOf (ps.map (fun b => (.high, b)) ++ rest) = ps := by
  induction ps with
  | nil => simpa using h
  | cons b bs ih => simpa [parametersOf] using ih

theorem afterParameters_append (ps : List Byte) (rest : List WirePair) :
    afterParameters (ps.map (fun b => (.high, b)) ++ rest) = afterParameters rest := by
  induction ps with
  | nil => rfl
  | cons b bs ih => simpa [afterParameters] using ih

/-- The admissibility test is `inTable`, entry by entry (rule R177). -/
theorem admissible_iff (p : Params) (l : List CfgEntry) : admissible p l = true ↔ ∀ e ∈ l, inTable p e.mnemonic = true := by
  simp [admissible]

/-- The listed table is the whole table. -/
theorem mem_table_iff (p : Params) (m : Mnemonic) : m ∈ p.table ↔ inTable p m = true := by
  refine ⟨fun h => by simpa using (List.mem_filter.mp h).2, fun h => List.mem_filter.mpr ⟨?_, h⟩⟩
  cases m with
  | further k =>
    have hk : k < p.olderOnly.further.length := by
      have h' : (p.older p.olderOnly.further[k]?).isSome = true := h
      unfold Params.older at h'
      split at h'
      · simpa using h'
      · simp at h'
    simp [Params.olderMnemonics, hk]
  | _ => simp [commonMnemonics, Params.olderMnemonics]

/-- The fifteen common opcodes are in every table, and no other one in the newer (rules R89, R139). -/
theorem inTable_common {p : Params} {m : Mnemonic} (h : m ∈ commonMnemonics) : inTable p m = true := by
  simp only [commonMnemonics, List.mem_cons, List.not_mem_nil, or_false] at h
  rcases h with rfl | rfl | rfl | rfl | rfl | rfl | rfl | rfl | rfl | rfl | rfl | rfl | rfl | rfl | rfl <;> rfl

theorem inTable_newer {p : Params} {m : Mnemonic} (hg : p.gen = .newer) : inTable p m = true ↔ m ∈ commonMnemonics := by
  refine ⟨fun h => ?_, inTable_common⟩
  cases m <;> simp [inTable, opv, Params.older, hg, commonMnemonics] at h ⊢

/-- The byte of an opcode of the table. -/
theorem opByte_of_opv {p : Params} {m : Mnemonic} {b : Byte} (h : opv p m = some b) : opByte p m = b ∧ inTable p m = true := by
  simp [opByte, inTable, h]

/-- An instance built with any opcode bytes has a `CFG`, and it is admissible (rules R35, R177): INIT is accepted. -/
theorem builtWith_configuration (c : CommonOpcodes) (f : Mnemonic → Byte) (further : List Byte) :
    (Params.builtWith c f further).configuration = some (Params.builtWith c f further).cfgOlder
      ∧ admissible (Params.builtWith c f further) (Params.builtWith c f further).cfgOlder = true := by
  refine ⟨rfl, (admissible_iff _ _).mpr fun e he => ?_⟩
  have h := (List.mem_filter.mp he).2
  cases hm : e.mnemonic <;> rw [hm] at h <;> exact h

/-- Distinct opcodes stay distinct in a part of the list. -/
theorem distinctOn_mono {p : Params} {ms ns : List Mnemonic} (h : distinctOn p ns = true) (hs : ∀ m ∈ ms, m ∈ ns) :
    distinctOn p ms = true := by
  simp only [distinctOn, List.all_eq_true] at h ⊢
  exact fun m hm n hn => h m (hs m hm) n (hs n hn)

/-- The opcodes issued under an admissible `CFG` are opcodes of the table (rules R89, R177). -/
theorem issued_subset_table {p : Params} (h : ∀ l, p.configuration = some l → admissible p l = true) :
    ∀ m ∈ p.issued, m ∈ p.table := by
  intro m hm
  rw [mem_table_iff]
  simp only [Params.issued, List.mem_append] at hm
  rcases hm with hm | hm
  · exact inTable_common (by revert m; decide)
  · cases hg : p.gen with
    | older =>
      rw [hg] at hm
      obtain ⟨e, he, rfl⟩ := List.mem_map.mp hm
      exact (admissible_iff _ _).mp (h p.cfgOlder (by simp [Params.configuration, hg])) e he
    | newer =>
      rw [hg] at hm
      obtain ⟨e, he, rfl⟩ := List.mem_map.mp hm
      cases hc : p.cfgNewer with
      | none => simp [hc] at he
      | some l =>
        rw [hc] at he
        exact (admissible_iff _ _).mp (h l (by simp [Params.configuration, hg, hc])) e he

/-- The machine at reset passes the configuration check (rules R141, R177). -/
theorem built_wellFormed : Params.built.wellFormed = true := by
  unfold Params.built
  cases h : (Params.builtWith Config.commonOlder Config.olderByte Config.olderFurther).wellFormed with
  | true => simpa using h
  | false =>
    have hc := builtWith_configuration (Params.ref 0 0 0 ⟨0, 0⟩).commonOlder refByte []
    have ht : distinctOn (Params.builtWith (Params.ref 0 0 0 ⟨0, 0⟩).commonOlder refByte [])
        (Params.builtWith (Params.ref 0 0 0 ⟨0, 0⟩).commonOlder refByte []).table = true := rfl
    have hi := distinctOn_mono ht (issued_subset_table fun l hl => by rw [hc.1] at hl; cases hl; exact hc.2)
    simp [Params.wellFormed, hi, hc.1, hc.2]

end Sys2Proof
end

