-- ==== Sys2Proof/Laws/Memory.lean ====
section
/-! SUPPORT. The frame memory: the canonical form is kept by the one operation that writes, and by every way the panel changes; a
read after a write. -/

namespace Sys2Proof.Machine

open Sys2Proof

theorem FrameMem.above_write {k : Nat} {m : FrameMem} {k' : Nat} {v : Word} (hk : k < k') (h : FrameMem.above k m = true) :
    FrameMem.above k (FrameMem.write m k' v) = true := by
  induction m with
  | nil => simpa [FrameMem.write, FrameMem.above] using hk
  | cons c rest ih =>
    obtain ⟨k₂, v₂⟩ := c
    simp only [FrameMem.above, List.all_cons, Bool.and_eq_true, decide_eq_true_eq] at h ih ⊢
    unfold FrameMem.write
    split
    · simpa [hk] using h
    · split
      · simpa [hk] using h.2
      · simpa [h.1] using ih h.2

theorem FrameMem.above_mono {j k : Nat} {m : FrameMem} (hjk : j < k) (h : FrameMem.above k m = true) :
    FrameMem.above j m = true := by
  simp only [FrameMem.above, List.all_eq_true, decide_eq_true_eq] at h ⊢
  exact fun c hc => Nat.lt_trans hjk (h c hc)

theorem FrameMem.write_wf {m : FrameMem} (k : Nat) (v : Word) (h : FrameMem.wf m = true) :
    FrameMem.wf (FrameMem.write m k v) = true := by
  induction m with
  | nil => simp [FrameMem.write, FrameMem.wf, FrameMem.above]
  | cons c rest ih =>
    obtain ⟨k', v'⟩ := c
    simp only [FrameMem.wf, Bool.and_eq_true] at h
    unfold FrameMem.write
    split
    · rename_i hlt
      simp only [FrameMem.wf, Bool.and_eq_true, h.1, h.2, and_true]
      have := FrameMem.above_mono hlt h.1
      simp only [FrameMem.above] at this ⊢
      simp [hlt, this]
    · split
      · rename_i he
        subst he
        simp [FrameMem.wf, h.1, h.2]
      · rename_i hge hne
        have hlt : k' < k := by omega
        simp [FrameMem.wf, FrameMem.above_write hlt h.1, ih h.2]

theorem FrameMem.read_above {k : Nat} {m : FrameMem} (h : FrameMem.above k m = true) : FrameMem.read m k = none := by
  induction m with
  | nil => rfl
  | cons c rest ih =>
    obtain ⟨k', v'⟩ := c
    simp only [FrameMem.above, List.all_cons, Bool.and_eq_true, decide_eq_true_eq] at h ih
    unfold FrameMem.read
    rw [if_neg (by omega)]
    exact ih h.2

theorem FrameMem.read_write_same (m : FrameMem) (k : Nat) (v : Word) : FrameMem.read (FrameMem.write m k v) k = some v := by
  induction m with
  | nil => simp [FrameMem.write, FrameMem.read]
  | cons c rest ih =>
    obtain ⟨k', v'⟩ := c
    unfold FrameMem.write
    split
    · simp [FrameMem.read]
    · split
      · simp [FrameMem.read]
      · rename_i hne
        simpa [FrameMem.read, hne] using ih

theorem FrameMem.read_write_other (m : FrameMem) {j k : Nat} (v : Word) (h : j ≠ k) :
    FrameMem.read (FrameMem.write m k v) j = FrameMem.read m j := by
  induction m with
  | nil => simp [FrameMem.write, FrameMem.read, h]
  | cons c rest ih =>
    obtain ⟨k', v'⟩ := c
    unfold FrameMem.write
    split
    · simp [FrameMem.read, h]
    · split
      · rename_i he
        subst he
        simp [FrameMem.read, h]
      · simp only [FrameMem.read, ih]

/-- Two locations with the same key are the same location. -/
theorem cellKey_inj {x y x' y' : Word} (h : cellKey x y = cellKey x' y') : x = x' ∧ y = y' := by
  have hy := y.isLt
  have hy' := y'.isLt
  unfold cellKey at h
  refine ⟨BitVec.eq_of_toNat_eq ?_, BitVec.eq_of_toNat_eq ?_⟩ <;> omega

theorem Panel.claim_standing {q : Panel} (r : Panel) (h : q.standing = true) : q.claim r = r := by simp [Panel.claim, h]

theorem Panel.claim_fallen {q : Panel} (r : Panel) (h : q.standing = false) : q.claim r = Panel.blank q.cfg := by
  simp [Panel.claim, h]

/-- A claim that lists no cell. -/
theorem Panel.claim_fm_nil {q r : Panel} (h : r.fm = []) : (q.claim r).fm = [] := by
  unfold Panel.claim
  split
  · exact h
  · rfl

theorem Panel.columnsSet_fm (q : Panel) (p : Params) (a b : Word) : (q.columnsSet p a b).fm = [] := by
  apply Panel.claim_fm_nil; split <;> rfl

theorem Panel.rowsSet_fm (q : Panel) (p : Params) (a b : Word) : (q.rowsSet p a b).fm = [] := by
  apply Panel.claim_fm_nil; split <;> rfl

theorem Panel.windowSet_fm (q : Panel) (p : Params) (a b c d : Word) : (q.windowSet p a b c d).fm = [] := by
  apply Panel.claim_fm_nil; split <;> rfl

theorem Panel.pixelStreamed_fm (q : Panel) : q.pixelStreamed.fm = [] := by apply Panel.claim_fm_nil; split <;> rfl

theorem Panel.commanded_fm (q : Panel) (p : Params) (m : Mnemonic) (ps : List Byte) : (q.commanded p m ps).fm = [] := by
  unfold Panel.commanded
  split
  · exact Panel.claim_fm_nil rfl
  · exact Panel.claim_fm_nil rfl
  · exact Panel.columnsSet_fm q p _ _
  · exact Panel.rowsSet_fm q p _ _
  · exact Panel.pixelStreamed_fm q
  · exact Panel.claim_fm_nil rfl
  · exact Panel.claim_fm_nil rfl
  · rfl

/-- Everything a SET_PIXEL can do to the cells known. -/
theorem Panel.pixelWritten_fm (q : Panel) (p : Params) (l : Latches) :
    (q.pixelWritten p l).fm = []
    ∨ (q.standing = true ∧ q.wordCells = true ∧ inFrame p q.frame l.x l.y = true
        ∧ (q.pixelWritten p l).fm = q.fm.write (cellKey l.x l.y) l.color) := by
  cases hs : q.standing with
  | false => exact .inl (by simp [Panel.pixelWritten, Panel.claim, hs, Panel.blank])
  | true =>
    cases hf : inFrame p q.frame l.x l.y with
    | false => exact .inl (by simp [Panel.pixelWritten, Panel.claim, hs, hf, Panel.obscured, Panel.blank])
    | true =>
      cases hw : q.wordCells with
      | false => exact .inl (by simp [Panel.pixelWritten, Panel.claim, hs, hw, Panel.obscured, Panel.blank])
      | true => exact .inr ⟨rfl, rfl, rfl, by simp [Panel.pixelWritten, Panel.claim, hs, hf, hw]⟩

/-- Everything a completed operation can do to the cells known: it forgets them, leaves them, or writes the cell of a SET_PIXEL. -/
theorem Panel.afterOk_fm (op : Operation) (p : Params) (c : Cfg) (l : Latches) (q : Panel) :
    (Panel.afterOk op p c l q).fm = [] ∨ (Panel.afterOk op p c l q).fm = q.fm
    ∨ (op = .setPixel ∧ q.standing = true ∧ q.wordCells = true ∧ inFrame p q.frame l.x l.y = true
        ∧ (Panel.afterOk op p c l q).fm = q.fm.write (cellKey l.x l.y) l.color) := by
  cases op with
  | init => exact .inl (by simp only [Panel.afterOk, Panel.initialised]; split <;> rfl)
  | setOrientation => exact .inl (Panel.claim_fm_nil rfl)
  | setPixel =>
    rcases q.pixelWritten_fm p l with h | h
    · exact .inl h
    · exact .inr (.inr ⟨rfl, h⟩)
  | setAddressWindow => exact .inl (q.windowSet_fm p _ _ _ _)
  | softwareReset => exact .inl rfl
  | sleepOut => exact .inl (Panel.claim_fm_nil rfl)
  | displayOn => exact .inl (Panel.claim_fm_nil rfl)
  | setColumns a b => exact .inl (q.columnsSet_fm p a b)
  | setRows a b => exact .inl (q.rowsSet_fm p a b)
  | writePixel c => exact .inl q.pixelStreamed_fm
  | command m ps => exact .inl (q.commanded_fm p m ps)
  | startData => exact .inr (.inl rfl)
  | writeData b => exact .inl rfl
  | hardReset => exact .inl rfl
  | delayMs n => exact .inr (.inl rfl)

/-- A failed operation forgets every cell. -/
theorem Panel.afterErr_fm (op : Operation) (q : Panel) : (Panel.afterErr op q).fm = [] := by cases op <;> rfl

/-- Every way the panel changes keeps the canonical form of its frame memory. -/
theorem Panel.afterOk_wf {op : Operation} {p : Params} {c : Cfg} {l : Latches} {q : Panel} (h : FrameMem.wf q.fm = true) :
    FrameMem.wf (Panel.afterOk op p c l q).fm = true := by
  rcases Panel.afterOk_fm op p c l q with h' | h' | ⟨_, _, _, _, h'⟩ <;> rw [h']
  · rfl
  · exact h
  · exact FrameMem.write_wf _ _ h

theorem Panel.afterErr_wf {op : Operation} {q : Panel} : FrameMem.wf (Panel.afterErr op q).fm = true := by
  rw [Panel.afterErr_fm]; rfl

theorem reset_memory_wf : FrameMem.wf State.reset.panel.fm = true := rfl

end Sys2Proof.Machine
end

