-- ==== Sys2Proof/Laws/State.lean ====
section
/-! SUPPORT. One lemma for each field under each update of the state, so that no proof unfolds a record update. -/

namespace Sys2Proof.Machine

open Sys2Proof

variable (s : State)

@[simp] theorem State.setDc_params (b : Bool) : (s.setDc b).params = s.params := rfl
@[simp] theorem State.setDc_cfg (b : Bool) : (s.setDc b).cfg = s.cfg := rfl
@[simp] theorem State.setDc_dc (b : Bool) : (s.setDc b).dc = level b := rfl
@[simp] theorem State.setDc_rst (b : Bool) : (s.setDc b).rst = s.rst := rfl
@[simp] theorem State.setDc_busy (b : Bool) : (s.setDc b).busy = s.busy := rfl
@[simp] theorem State.setDc_op (b : Bool) : (s.setDc b).op = s.op := rfl
@[simp] theorem State.setDc_upc (b : Bool) : (s.setDc b).upc = s.upc := rfl
@[simp] theorem State.setDc_mprog (b : Bool) : (s.setDc b).mprog = s.mprog := rfl
@[simp] theorem State.setDc_latch (b : Bool) : (s.setDc b).latch = s.latch := rfl
@[simp] theorem State.setDc_drawing (b : Bool) : (s.setDc b).drawing = s.drawing := rfl
@[simp] theorem State.setDc_trace (b : Bool) : (s.setDc b).trace = s.trace := rfl
@[simp] theorem State.setDc_received (b : Bool) : (s.setDc b).received = s.received := rfl
@[simp] theorem State.setDc_panel (b : Bool) : (s.setDc b).panel = s.panel := rfl
@[simp] theorem State.setDc_requests (b : Bool) : (s.setDc b).requests = s.requests := rfl
@[simp] theorem State.setDc_replies (b : Bool) : (s.setDc b).replies = s.replies := rfl
@[simp] theorem State.setDc_timer (b : Bool) : (s.setDc b).timer = s.timer := rfl
@[simp] theorem State.setDc_draws (b : Bool) : (s.setDc b).draws = s.draws := rfl

@[simp] theorem State.setRst_params (b : Bool) : (s.setRst b).params = s.params := rfl
@[simp] theorem State.setRst_cfg (b : Bool) : (s.setRst b).cfg = s.cfg := rfl
@[simp] theorem State.setRst_dc (b : Bool) : (s.setRst b).dc = s.dc := rfl
@[simp] theorem State.setRst_rst (b : Bool) : (s.setRst b).rst = level b := rfl
@[simp] theorem State.setRst_busy (b : Bool) : (s.setRst b).busy = s.busy := rfl
@[simp] theorem State.setRst_op (b : Bool) : (s.setRst b).op = s.op := rfl
@[simp] theorem State.setRst_upc (b : Bool) : (s.setRst b).upc = s.upc := rfl
@[simp] theorem State.setRst_mprog (b : Bool) : (s.setRst b).mprog = s.mprog := rfl
@[simp] theorem State.setRst_latch (b : Bool) : (s.setRst b).latch = s.latch := rfl
@[simp] theorem State.setRst_drawing (b : Bool) : (s.setRst b).drawing = s.drawing := rfl
@[simp] theorem State.setRst_trace (b : Bool) : (s.setRst b).trace = s.trace := rfl
@[simp] theorem State.setRst_received (b : Bool) : (s.setRst b).received = s.received := rfl
@[simp] theorem State.setRst_panel (b : Bool) : (s.setRst b).panel = s.panel := rfl
@[simp] theorem State.setRst_requests (b : Bool) : (s.setRst b).requests = s.requests := rfl
@[simp] theorem State.setRst_replies (b : Bool) : (s.setRst b).replies = s.replies := rfl
@[simp] theorem State.setRst_timer (b : Bool) : (s.setRst b).timer = s.timer := rfl
@[simp] theorem State.setRst_draws (b : Bool) : (s.setRst b).draws = s.draws := rfl

@[simp] theorem State.record_params (e : Event) : (s.record e).params = s.params := rfl
@[simp] theorem State.record_cfg (e : Event) : (s.record e).cfg = s.cfg := rfl
@[simp] theorem State.record_dc (e : Event) : (s.record e).dc = s.dc := rfl
@[simp] theorem State.record_rst (e : Event) : (s.record e).rst = s.rst := rfl
@[simp] theorem State.record_busy (e : Event) : (s.record e).busy = s.busy := rfl
@[simp] theorem State.record_op (e : Event) : (s.record e).op = s.op := rfl
@[simp] theorem State.record_upc (e : Event) : (s.record e).upc = s.upc := rfl
@[simp] theorem State.record_mprog (e : Event) : (s.record e).mprog = s.mprog := rfl
@[simp] theorem State.record_latch (e : Event) : (s.record e).latch = s.latch := rfl
@[simp] theorem State.record_drawing (e : Event) : (s.record e).drawing = s.drawing := rfl
@[simp] theorem State.record_trace (e : Event) : (s.record e).trace = s.trace ++ [e] := rfl
@[simp] theorem State.record_received (e : Event) : (s.record e).received = s.received := rfl
@[simp] theorem State.record_panel (e : Event) : (s.record e).panel = s.panel := rfl
@[simp] theorem State.record_requests (e : Event) : (s.record e).requests = s.requests := rfl
@[simp] theorem State.record_replies (e : Event) : (s.record e).replies = s.replies := rfl
@[simp] theorem State.record_timer (e : Event) : (s.record e).timer = s.timer := rfl
@[simp] theorem State.record_draws (e : Event) : (s.record e).draws = s.draws := rfl

@[simp] theorem State.advance_params : s.advance.params = s.params := rfl
@[simp] theorem State.advance_cfg : s.advance.cfg = s.cfg := rfl
@[simp] theorem State.advance_dc : s.advance.dc = s.dc := rfl
@[simp] theorem State.advance_rst : s.advance.rst = s.rst := rfl
@[simp] theorem State.advance_busy : s.advance.busy = s.busy := rfl
@[simp] theorem State.advance_op : s.advance.op = s.op := rfl
@[simp] theorem State.advance_upc : s.advance.upc = s.upc + 1 := rfl
@[simp] theorem State.advance_mprog : s.advance.mprog = s.mprog := rfl
@[simp] theorem State.advance_latch : s.advance.latch = s.latch := rfl
@[simp] theorem State.advance_drawing : s.advance.drawing = s.drawing := rfl
@[simp] theorem State.advance_trace : s.advance.trace = s.trace := rfl
@[simp] theorem State.advance_received : s.advance.received = s.received := rfl
@[simp] theorem State.advance_panel : s.advance.panel = (if s.op = .init then s.panel.broughtUp s.params (s.upc + 1) else s.panel) := rfl
@[simp] theorem State.advance_requests : s.advance.requests = s.requests := rfl
@[simp] theorem State.advance_replies : s.advance.replies = s.replies := rfl
@[simp] theorem State.advance_timer : s.advance.timer = s.timer := rfl
@[simp] theorem State.advance_draws : s.advance.draws = s.draws := rfl

@[simp] theorem State.deliver_params (bs : List Byte) : (s.deliver bs).params = s.params := rfl
@[simp] theorem State.deliver_cfg (bs : List Byte) : (s.deliver bs).cfg = s.cfg := rfl
@[simp] theorem State.deliver_dc (bs : List Byte) : (s.deliver bs).dc = s.dc := rfl
@[simp] theorem State.deliver_rst (bs : List Byte) : (s.deliver bs).rst = s.rst := rfl
@[simp] theorem State.deliver_busy (bs : List Byte) : (s.deliver bs).busy = s.busy := rfl
@[simp] theorem State.deliver_op (bs : List Byte) : (s.deliver bs).op = s.op := rfl
@[simp] theorem State.deliver_upc (bs : List Byte) : (s.deliver bs).upc = s.upc := rfl
@[simp] theorem State.deliver_mprog (bs : List Byte) : (s.deliver bs).mprog = s.mprog := rfl
@[simp] theorem State.deliver_latch (bs : List Byte) : (s.deliver bs).latch = s.latch := rfl
@[simp] theorem State.deliver_drawing (bs : List Byte) : (s.deliver bs).drawing = s.drawing := rfl
@[simp] theorem State.deliver_trace (bs : List Byte) : (s.deliver bs).trace = s.trace := rfl
@[simp] theorem State.deliver_received (bs : List Byte) : (s.deliver bs).received = s.received ++ bs.map fun b => (s.dc, b) := rfl
@[simp] theorem State.deliver_panel (bs : List Byte) : (s.deliver bs).panel = s.panel := rfl
@[simp] theorem State.deliver_requests (bs : List Byte) : (s.deliver bs).requests = s.requests := rfl
@[simp] theorem State.deliver_replies (bs : List Byte) : (s.deliver bs).replies = s.replies := rfl
@[simp] theorem State.deliver_timer (bs : List Byte) : (s.deliver bs).timer = s.timer := rfl
@[simp] theorem State.deliver_draws (bs : List Byte) : (s.deliver bs).draws = s.draws := rfl

@[simp] theorem State.deliverPart_params (bs : List Byte) : (s.deliverPart bs).params = s.params := rfl
@[simp] theorem State.deliverPart_cfg (bs : List Byte) : (s.deliverPart bs).cfg = s.cfg := rfl
@[simp] theorem State.deliverPart_dc (bs : List Byte) : (s.deliverPart bs).dc = s.dc := rfl
@[simp] theorem State.deliverPart_rst (bs : List Byte) : (s.deliverPart bs).rst = s.rst := rfl
@[simp] theorem State.deliverPart_busy (bs : List Byte) : (s.deliverPart bs).busy = s.busy := rfl
@[simp] theorem State.deliverPart_op (bs : List Byte) : (s.deliverPart bs).op = s.op := rfl
@[simp] theorem State.deliverPart_upc (bs : List Byte) : (s.deliverPart bs).upc = s.upc := rfl
@[simp] theorem State.deliverPart_mprog (bs : List Byte) : (s.deliverPart bs).mprog = s.mprog := rfl
@[simp] theorem State.deliverPart_latch (bs : List Byte) : (s.deliverPart bs).latch = s.latch := rfl
@[simp] theorem State.deliverPart_drawing (bs : List Byte) : (s.deliverPart bs).drawing = s.drawing := rfl
@[simp] theorem State.deliverPart_trace (bs : List Byte) : (s.deliverPart bs).trace = s.trace := rfl
@[simp] theorem State.deliverPart_received (bs : List Byte) : (s.deliverPart bs).received = s.received ++ (bs.take (Config.deliveredCount s.draws)).map fun b => (s.dc, b) := rfl
@[simp] theorem State.deliverPart_panel (bs : List Byte) : (s.deliverPart bs).panel = s.panel := rfl
@[simp] theorem State.deliverPart_requests (bs : List Byte) : (s.deliverPart bs).requests = s.requests := rfl
@[simp] theorem State.deliverPart_replies (bs : List Byte) : (s.deliverPart bs).replies = s.replies := rfl
@[simp] theorem State.deliverPart_timer (bs : List Byte) : (s.deliverPart bs).timer = s.timer := rfl
@[simp] theorem State.deliverPart_draws (bs : List Byte) : (s.deliverPart bs).draws = s.draws + 1 := rfl

@[simp] theorem State.release_params : s.release.params = s.params := rfl
@[simp] theorem State.release_cfg : s.release.cfg = s.cfg := rfl
@[simp] theorem State.release_dc : s.release.dc = s.dc := rfl
@[simp] theorem State.release_rst : s.release.rst = s.rst := rfl
@[simp] theorem State.release_busy : s.release.busy = false := rfl
@[simp] theorem State.release_op : s.release.op = s.op := rfl
@[simp] theorem State.release_upc : s.release.upc = s.upc := rfl
@[simp] theorem State.release_mprog : s.release.mprog = s.mprog := rfl
@[simp] theorem State.release_latch : s.release.latch = s.latch := rfl
@[simp] theorem State.release_drawing : s.release.drawing = none := rfl
@[simp] theorem State.release_trace : s.release.trace = s.trace := rfl
@[simp] theorem State.release_received : s.release.received = s.received := rfl
@[simp] theorem State.release_panel : s.release.panel = s.panel := rfl
@[simp] theorem State.release_requests : s.release.requests = s.requests := rfl
@[simp] theorem State.release_replies : s.release.replies = s.replies := rfl
@[simp] theorem State.release_timer : s.release.timer = s.timer := rfl
@[simp] theorem State.release_draws : s.release.draws = s.draws := rfl

@[simp] theorem State.panelAfterOk_params : s.panelAfterOk.params = s.params := rfl
@[simp] theorem State.panelAfterOk_cfg : s.panelAfterOk.cfg = s.cfg := rfl
@[simp] theorem State.panelAfterOk_dc : s.panelAfterOk.dc = s.dc := rfl
@[simp] theorem State.panelAfterOk_rst : s.panelAfterOk.rst = s.rst := rfl
@[simp] theorem State.panelAfterOk_busy : s.panelAfterOk.busy = s.busy := rfl
@[simp] theorem State.panelAfterOk_op : s.panelAfterOk.op = s.op := rfl
@[simp] theorem State.panelAfterOk_upc : s.panelAfterOk.upc = s.upc := rfl
@[simp] theorem State.panelAfterOk_mprog : s.panelAfterOk.mprog = s.mprog := rfl
@[simp] theorem State.panelAfterOk_latch : s.panelAfterOk.latch = s.latch := rfl
@[simp] theorem State.panelAfterOk_drawing : s.panelAfterOk.drawing = s.drawing := rfl
@[simp] theorem State.panelAfterOk_trace : s.panelAfterOk.trace = s.trace := rfl
@[simp] theorem State.panelAfterOk_received : s.panelAfterOk.received = s.received := rfl
@[simp] theorem State.panelAfterOk_panel : s.panelAfterOk.panel = Panel.afterOk s.op s.params s.cfg s.latch s.panel := rfl
@[simp] theorem State.panelAfterOk_requests : s.panelAfterOk.requests = s.requests := rfl
@[simp] theorem State.panelAfterOk_replies : s.panelAfterOk.replies = s.replies := rfl
@[simp] theorem State.panelAfterOk_timer : s.panelAfterOk.timer = s.timer := rfl
@[simp] theorem State.panelAfterOk_draws : s.panelAfterOk.draws = s.draws := rfl

@[simp] theorem State.panelAfterErr_params : s.panelAfterErr.params = s.params := rfl
@[simp] theorem State.panelAfterErr_cfg : s.panelAfterErr.cfg = s.cfg := rfl
@[simp] theorem State.panelAfterErr_dc : s.panelAfterErr.dc = s.dc := rfl
@[simp] theorem State.panelAfterErr_rst : s.panelAfterErr.rst = s.rst := rfl
@[simp] theorem State.panelAfterErr_busy : s.panelAfterErr.busy = s.busy := rfl
@[simp] theorem State.panelAfterErr_op : s.panelAfterErr.op = s.op := rfl
@[simp] theorem State.panelAfterErr_upc : s.panelAfterErr.upc = s.upc := rfl
@[simp] theorem State.panelAfterErr_mprog : s.panelAfterErr.mprog = s.mprog := rfl
@[simp] theorem State.panelAfterErr_latch : s.panelAfterErr.latch = s.latch := rfl
@[simp] theorem State.panelAfterErr_drawing : s.panelAfterErr.drawing = s.drawing := rfl
@[simp] theorem State.panelAfterErr_trace : s.panelAfterErr.trace = s.trace := rfl
@[simp] theorem State.panelAfterErr_received : s.panelAfterErr.received = s.received := rfl
@[simp] theorem State.panelAfterErr_panel : s.panelAfterErr.panel = Panel.afterErr s.op s.panel := rfl
@[simp] theorem State.panelAfterErr_requests : s.panelAfterErr.requests = s.requests := rfl
@[simp] theorem State.panelAfterErr_replies : s.panelAfterErr.replies = s.replies := rfl
@[simp] theorem State.panelAfterErr_timer : s.panelAfterErr.timer = s.timer := rfl
@[simp] theorem State.panelAfterErr_draws : s.panelAfterErr.draws = s.draws := rfl

@[simp] theorem State.accept_params (o : Operation) : (s.accept o).params = s.params := rfl
@[simp] theorem State.accept_cfg (o : Operation) : (s.accept o).cfg = s.cfg := rfl
@[simp] theorem State.accept_dc (o : Operation) : (s.accept o).dc = s.dc := rfl
@[simp] theorem State.accept_rst (o : Operation) : (s.accept o).rst = s.rst := rfl
@[simp] theorem State.accept_busy (o : Operation) : (s.accept o).busy = true := rfl
@[simp] theorem State.accept_op (o : Operation) : (s.accept o).op = o := rfl
@[simp] theorem State.accept_upc (o : Operation) : (s.accept o).upc = 0 := rfl
@[simp] theorem State.accept_mprog (o : Operation) : (s.accept o).mprog = s.expand o := rfl
@[simp] theorem State.accept_latch (o : Operation) : (s.accept o).latch = s.latch := rfl
@[simp] theorem State.accept_drawing (o : Operation) : (s.accept o).drawing = none := rfl
@[simp] theorem State.accept_trace (o : Operation) : (s.accept o).trace = s.trace := rfl
@[simp] theorem State.accept_received (o : Operation) : (s.accept o).received = s.received := rfl
@[simp] theorem State.accept_panel (o : Operation) : (s.accept o).panel = s.panel := rfl
@[simp] theorem State.accept_requests (o : Operation) : (s.accept o).requests = s.requests := rfl
@[simp] theorem State.accept_replies (o : Operation) : (s.accept o).replies = s.replies := rfl
@[simp] theorem State.accept_timer (o : Operation) : (s.accept o).timer = s.timer := rfl
@[simp] theorem State.accept_draws (o : Operation) : (s.accept o).draws = s.draws := rfl

@[simp] theorem State.latchWindow_params (a b c d : Word) : (s.latchWindow a b c d).params = s.params := rfl
@[simp] theorem State.latchWindow_cfg (a b c d : Word) : (s.latchWindow a b c d).cfg = s.cfg := rfl
@[simp] theorem State.latchWindow_dc (a b c d : Word) : (s.latchWindow a b c d).dc = s.dc := rfl
@[simp] theorem State.latchWindow_rst (a b c d : Word) : (s.latchWindow a b c d).rst = s.rst := rfl
@[simp] theorem State.latchWindow_busy (a b c d : Word) : (s.latchWindow a b c d).busy = s.busy := rfl
@[simp] theorem State.latchWindow_op (a b c d : Word) : (s.latchWindow a b c d).op = s.op := rfl
@[simp] theorem State.latchWindow_upc (a b c d : Word) : (s.latchWindow a b c d).upc = s.upc := rfl
@[simp] theorem State.latchWindow_mprog (a b c d : Word) : (s.latchWindow a b c d).mprog = s.mprog := rfl
@[simp] theorem State.latchWindow_latch (a b c d : Word) : (s.latchWindow a b c d).latch = { s.latch with x0 := a, y0 := b, x1 := c, y1 := d } := rfl
@[simp] theorem State.latchWindow_drawing (a b c d : Word) : (s.latchWindow a b c d).drawing = s.drawing := rfl
@[simp] theorem State.latchWindow_trace (a b c d : Word) : (s.latchWindow a b c d).trace = s.trace := rfl
@[simp] theorem State.latchWindow_received (a b c d : Word) : (s.latchWindow a b c d).received = s.received := rfl
@[simp] theorem State.latchWindow_panel (a b c d : Word) : (s.latchWindow a b c d).panel = s.panel := rfl
@[simp] theorem State.latchWindow_requests (a b c d : Word) : (s.latchWindow a b c d).requests = s.requests := rfl
@[simp] theorem State.latchWindow_replies (a b c d : Word) : (s.latchWindow a b c d).replies = s.replies := rfl
@[simp] theorem State.latchWindow_timer (a b c d : Word) : (s.latchWindow a b c d).timer = s.timer := rfl
@[simp] theorem State.latchWindow_draws (a b c d : Word) : (s.latchWindow a b c d).draws = s.draws := rfl

@[simp] theorem State.latchPixel_params (a b c : Word) : (s.latchPixel a b c).params = s.params := rfl
@[simp] theorem State.latchPixel_cfg (a b c : Word) : (s.latchPixel a b c).cfg = s.cfg := rfl
@[simp] theorem State.latchPixel_dc (a b c : Word) : (s.latchPixel a b c).dc = s.dc := rfl
@[simp] theorem State.latchPixel_rst (a b c : Word) : (s.latchPixel a b c).rst = s.rst := rfl
@[simp] theorem State.latchPixel_busy (a b c : Word) : (s.latchPixel a b c).busy = s.busy := rfl
@[simp] theorem State.latchPixel_op (a b c : Word) : (s.latchPixel a b c).op = s.op := rfl
@[simp] theorem State.latchPixel_upc (a b c : Word) : (s.latchPixel a b c).upc = s.upc := rfl
@[simp] theorem State.latchPixel_mprog (a b c : Word) : (s.latchPixel a b c).mprog = s.mprog := rfl
@[simp] theorem State.latchPixel_latch (a b c : Word) : (s.latchPixel a b c).latch = { s.latch with x := a, y := b, color := c } := rfl
@[simp] theorem State.latchPixel_drawing (a b c : Word) : (s.latchPixel a b c).drawing = s.drawing := rfl
@[simp] theorem State.latchPixel_trace (a b c : Word) : (s.latchPixel a b c).trace = s.trace := rfl
@[simp] theorem State.latchPixel_received (a b c : Word) : (s.latchPixel a b c).received = s.received := rfl
@[simp] theorem State.latchPixel_panel (a b c : Word) : (s.latchPixel a b c).panel = s.panel := rfl
@[simp] theorem State.latchPixel_requests (a b c : Word) : (s.latchPixel a b c).requests = s.requests := rfl
@[simp] theorem State.latchPixel_replies (a b c : Word) : (s.latchPixel a b c).replies = s.replies := rfl
@[simp] theorem State.latchPixel_timer (a b c : Word) : (s.latchPixel a b c).timer = s.timer := rfl
@[simp] theorem State.latchPixel_draws (a b c : Word) : (s.latchPixel a b c).draws = s.draws := rfl

@[simp] theorem State.latchOrientation_params (o : Orientation) : (s.latchOrientation o).params = s.params := rfl
@[simp] theorem State.latchOrientation_cfg (o : Orientation) : (s.latchOrientation o).cfg = s.cfg := rfl
@[simp] theorem State.latchOrientation_dc (o : Orientation) : (s.latchOrientation o).dc = s.dc := rfl
@[simp] theorem State.latchOrientation_rst (o : Orientation) : (s.latchOrientation o).rst = s.rst := rfl
@[simp] theorem State.latchOrientation_busy (o : Orientation) : (s.latchOrientation o).busy = s.busy := rfl
@[simp] theorem State.latchOrientation_op (o : Orientation) : (s.latchOrientation o).op = s.op := rfl
@[simp] theorem State.latchOrientation_upc (o : Orientation) : (s.latchOrientation o).upc = s.upc := rfl
@[simp] theorem State.latchOrientation_mprog (o : Orientation) : (s.latchOrientation o).mprog = s.mprog := rfl
@[simp] theorem State.latchOrientation_latch (o : Orientation) : (s.latchOrientation o).latch = { s.latch with ori := o } := rfl
@[simp] theorem State.latchOrientation_drawing (o : Orientation) : (s.latchOrientation o).drawing = s.drawing := rfl
@[simp] theorem State.latchOrientation_trace (o : Orientation) : (s.latchOrientation o).trace = s.trace := rfl
@[simp] theorem State.latchOrientation_received (o : Orientation) : (s.latchOrientation o).received = s.received := rfl
@[simp] theorem State.latchOrientation_panel (o : Orientation) : (s.latchOrientation o).panel = s.panel := rfl
@[simp] theorem State.latchOrientation_requests (o : Orientation) : (s.latchOrientation o).requests = s.requests := rfl
@[simp] theorem State.latchOrientation_replies (o : Orientation) : (s.latchOrientation o).replies = s.replies := rfl
@[simp] theorem State.latchOrientation_timer (o : Orientation) : (s.latchOrientation o).timer = s.timer := rfl
@[simp] theorem State.latchOrientation_draws (o : Orientation) : (s.latchOrientation o).draws = s.draws := rfl

@[simp] theorem State.takeReply_params : s.takeReply.params = s.params := by unfold State.takeReply; split <;> rfl
@[simp] theorem State.takeReply_cfg : s.takeReply.cfg = s.cfg := by unfold State.takeReply; split <;> rfl
@[simp] theorem State.takeReply_dc : s.takeReply.dc = s.dc := by unfold State.takeReply; split <;> rfl
@[simp] theorem State.takeReply_rst : s.takeReply.rst = s.rst := by unfold State.takeReply; split <;> rfl
@[simp] theorem State.takeReply_busy : s.takeReply.busy = s.busy := by unfold State.takeReply; split <;> rfl
@[simp] theorem State.takeReply_op : s.takeReply.op = s.op := by unfold State.takeReply; split <;> rfl
@[simp] theorem State.takeReply_upc : s.takeReply.upc = s.upc := by unfold State.takeReply; split <;> rfl
@[simp] theorem State.takeReply_mprog : s.takeReply.mprog = s.mprog := by unfold State.takeReply; split <;> rfl
@[simp] theorem State.takeReply_latch : s.takeReply.latch = s.latch := by unfold State.takeReply; split <;> rfl
@[simp] theorem State.takeReply_drawing : s.takeReply.drawing = s.drawing := by unfold State.takeReply; split <;> rfl
@[simp] theorem State.takeReply_trace : s.takeReply.trace = s.trace := by unfold State.takeReply; split <;> rfl
@[simp] theorem State.takeReply_received : s.takeReply.received = s.received := by unfold State.takeReply; split <;> rfl
@[simp] theorem State.takeReply_panel : s.takeReply.panel = s.panel := by unfold State.takeReply; split <;> rfl
@[simp] theorem State.takeReply_requests : s.takeReply.requests = s.requests := by unfold State.takeReply; split <;> rfl
@[simp] theorem State.takeReply_timer : s.takeReply.timer = s.timer := by unfold State.takeReply; split <;> rfl
@[simp] theorem State.takeDelay_params : s.takeDelay.params = s.params := by unfold State.takeDelay; split <;> rfl
@[simp] theorem State.takeDelay_cfg : s.takeDelay.cfg = s.cfg := by unfold State.takeDelay; split <;> rfl
@[simp] theorem State.takeDelay_dc : s.takeDelay.dc = s.dc := by unfold State.takeDelay; split <;> rfl
@[simp] theorem State.takeDelay_rst : s.takeDelay.rst = s.rst := by unfold State.takeDelay; split <;> rfl
@[simp] theorem State.takeDelay_busy : s.takeDelay.busy = s.busy := by unfold State.takeDelay; split <;> rfl
@[simp] theorem State.takeDelay_op : s.takeDelay.op = s.op := by unfold State.takeDelay; split <;> rfl
@[simp] theorem State.takeDelay_upc : s.takeDelay.upc = s.upc := by unfold State.takeDelay; split <;> rfl
@[simp] theorem State.takeDelay_mprog : s.takeDelay.mprog = s.mprog := by unfold State.takeDelay; split <;> rfl
@[simp] theorem State.takeDelay_latch : s.takeDelay.latch = s.latch := by unfold State.takeDelay; split <;> rfl
@[simp] theorem State.takeDelay_drawing : s.takeDelay.drawing = s.drawing := by unfold State.takeDelay; split <;> rfl
@[simp] theorem State.takeDelay_trace : s.takeDelay.trace = s.trace := by unfold State.takeDelay; split <;> rfl
@[simp] theorem State.takeDelay_received : s.takeDelay.received = s.received := by unfold State.takeDelay; split <;> rfl
@[simp] theorem State.takeDelay_panel : s.takeDelay.panel = s.panel := by unfold State.takeDelay; split <;> rfl
@[simp] theorem State.takeDelay_requests : s.takeDelay.requests = s.requests := by unfold State.takeDelay; split <;> rfl
@[simp] theorem State.takeDelay_replies : s.takeDelay.replies = s.replies := by unfold State.takeDelay; split <;> rfl

/-- A listed answer is used up, and the counter of free values stays. -/
theorem State.takeReply_listed {r : BusReply} {rs : List BusReply} (h : s.replies = r :: rs) :
    s.takeReply.replies = rs ∧ s.takeReply.draws = s.draws := by
  unfold State.takeReply; rw [h]; exact ⟨rfl, rfl⟩

theorem State.takeReply_listed_eq {r : BusReply} {rs : List BusReply} (h : s.replies = r :: rs) :
    s.takeReply = { s with replies := rs } := by
  unfold State.takeReply; rw [h]

theorem State.nextReply_listed {r : BusReply} {rs : List BusReply} (h : s.replies = r :: rs) : s.nextReply = r := by
  unfold State.nextReply; rw [h]

/-- A listed word of the delay service is used up, and the counter of free values stays. -/
theorem State.takeDelay_listed {r : DelayReply} {rs : List DelayReply} (h : s.timer = r :: rs) :
    s.takeDelay.timer = rs ∧ s.takeDelay.draws = s.draws := by
  unfold State.takeDelay; rw [h]; exact ⟨rfl, rfl⟩

theorem State.takeDelay_listed_eq {r : DelayReply} {rs : List DelayReply} (h : s.timer = r :: rs) :
    s.takeDelay = { s with timer := rs } := by
  unfold State.takeDelay; rw [h]

theorem State.nextDelay_listed {r : DelayReply} {rs : List DelayReply} (h : s.timer = r :: rs) : s.nextDelay = r := by
  unfold State.nextDelay; rw [h]

end Sys2Proof.Machine
end

