-- ==== Sys2Proof/Laws/Run.lean ====
section
/-! SUPPORT. What the shared operations can do, said once: performing micro-events, running a micro-program, ending an operation. -/

namespace Sys2Proof.Machine

open Sys2Proof

/-- The state a run ended in. -/
def Run.state : Run → State
  | .finished s => s
  | .failed _ s => s
  | .waiting s => s

/-- What no micro-event touches. -/
structure Kept (s t : State) : Prop where
  params : t.params = s.params
  cfg : t.cfg = s.cfg
  busy : t.busy = s.busy
  op : t.op = s.op
  mprog : t.mprog = s.mprog
  latch : t.latch = s.latch
  drawing : t.drawing = s.drawing
  requests : t.requests = s.requests

theorem Kept.rfl' {s : State} : Kept s s := ⟨rfl, rfl, rfl, rfl, rfl, rfl, rfl, rfl⟩

theorem Kept.trans' {s t u : State} (h : Kept s t) (k : Kept t u) : Kept s u :=
  ⟨k.params.trans h.params, k.cfg.trans h.cfg, k.busy.trans h.busy, k.op.trans h.op, k.mprog.trans h.mprog,
    k.latch.trans h.latch, k.drawing.trans h.drawing, k.requests.trans h.requests⟩

theorem State.perform_kept (s : State) (m : Micro) : Kept s (s.perform m).state := by
  cases m with
  | tx bytes =>
    simp only [State.perform, State.transmit]
    split <;> constructor <;> simp [Run.state]
  | rstSet b => constructor <;> rfl
  | dcSet b => constructor <;> rfl
  | delay n =>
    simp only [State.perform, State.pause]
    split <;> constructor <;> simp [Run.state]

/-- One equation per way a micro-program can go on. -/
theorem runMicros_cons (m : Micro) (ms : List Micro) (s : State) :
    runMicros (m :: ms) s =
      match s.perform m with
      | .finished s' => runMicros ms s'
      | .failed e s' => .failed e s'
      | .waiting s' => .waiting s' := rfl

@[simp] theorem runMicros_nil (s : State) : runMicros [] s = .finished s := rfl

theorem runMicros_append (ms ns : List Micro) (s : State) :
    runMicros (ms ++ ns) s =
      match runMicros ms s with
      | .finished s' => runMicros ns s'
      | .failed e s' => .failed e s'
      | .waiting s' => .waiting s' := by
  induction ms generalizing s with
  | nil => rfl
  | cons m ms ih =>
    rw [List.cons_append, runMicros_cons, runMicros_cons]
    cases s.perform m with
    | finished s' => exact ih s'
    | failed e s' => rfl
    | waiting s' => rfl

theorem runMicros_kept (ms : List Micro) (s : State) : Kept s (runMicros ms s).state := by
  induction ms generalizing s with
  | nil => exact Kept.rfl'
  | cons m ms ih =>
    have h := s.perform_kept m
    rw [runMicros_cons]
    cases hp : s.perform m with
    | finished s' => rw [hp] at h; exact h.trans' (ih s')
    | failed e s' => rw [hp] at h; exact h
    | waiting s' => rw [hp] at h; exact h

@[simp] theorem okEvents_nil : okEvents [] = [] := rfl
@[simp] theorem okEvents_cons (m : Micro) (ms : List Micro) : okEvents (m :: ms) = m.event :: okEvents ms := rfl
@[simp] theorem okEvents_append (ms ns : List Micro) : okEvents (ms ++ ns) = okEvents ms ++ okEvents ns := by
  simp [okEvents]

theorem txCount_append (ms ns : List Micro) : txCount (ms ++ ns) = txCount ms + txCount ns := by
  induction ms with
  | nil => simp [txCount]
  | cons m ms ih => cases m <;> (simp [txCount, ih]; try omega)

theorem delayCount_append (ms ns : List Micro) : delayCount (ms ++ ns) = delayCount ms + delayCount ns := by
  induction ms with
  | nil => simp [delayCount]
  | cons m ms ih => cases m <;> (simp [delayCount, ih]; try omega)

/-- What is known of the panel once `n` micro-events of the operation at hand were performed. -/
def State.panelDuring (s : State) (n : Nat) : Panel :=
  if n = 0 then s.panel else if s.op = .init then s.panel.broughtUp s.params (s.upc + n) else s.panel

@[simp] theorem State.panelDuring_zero (s : State) : s.panelDuring 0 = s.panel := by simp [State.panelDuring]

theorem State.panelDuring_other {s : State} (h : s.op ≠ .init) (n : Nat) : s.panelDuring n = s.panel := by simp [State.panelDuring, h]

@[simp] theorem Panel.broughtUp_broughtUp (q : Panel) (p : Params) (m n : Nat) : (q.broughtUp p m).broughtUp p n = q.broughtUp p n := rfl

/-- Where a run stands after the micro-events `pre`, all performed. -/
structure RanTo (pre : List Micro) (s t : State) : Prop where
  trace : t.trace = s.trace ++ okEvents pre
  dc : t.dc = dcAfter pre s.dc
  rst : t.rst = rstAfter pre s.rst
  upc : t.upc = s.upc + pre.length
  received : t.received = s.received ++ wireFrom s.dc (okEvents pre)
  op : t.op = s.op
  params : t.params = s.params
  panel : t.panel = s.panelDuring pre.length

theorem RanTo.nil (s : State) : RanTo [] s s := by constructor <;> simp [dcAfter, rstAfter, wireFrom]

theorem RanTo.cons {m : Micro} {pre : List Micro} {s u t : State} (h : RanTo [m] s u) (k : RanTo pre u t) : RanTo (m :: pre) s t := by
  obtain ⟨h1, h2, h3, h4, h5, h6, hp, h7⟩ := h
  obtain ⟨k1, k2, k3, k4, k5, k6, kp, k7⟩ := k
  constructor
  · simp [k1, h1]
  · rw [k2, h2]; cases m <;> rfl
  · rw [k3, h3]; cases m <;> rfl
  · simp [k4, h4]; omega
  · rw [k5, h5, h2]
    cases m <;> simp [Micro.event, wireFrom, dcAfter]
  · rw [k6, h6]
  · rw [kp, hp]
  · rw [k7]
    by_cases ho : s.op = .init
    · by_cases hz : pre.length = 0
      · simp [State.panelDuring, hz, h7]
      · simp [State.panelDuring, hz, h6, h7, hp, ho, h4]
        congr 1; omega
    · rw [State.panelDuring_other (by rw [h6]; exact ho), State.panelDuring_other ho, h7, State.panelDuring_other ho]

/-- A state after one micro-event that was performed. -/
theorem State.ranTo_one {s t : State} {m : Micro} (h : s.perform m = .finished t) : RanTo [m] s t := by
  cases m with
  | rstSet b =>
    obtain rfl : _ = t := Run.finished.inj h
    constructor <;> first | rfl | simp [Micro.event, wireFrom]
  | dcSet b =>
    obtain rfl : _ = t := Run.finished.inj h
    constructor <;> first | rfl | simp [Micro.event, wireFrom]
  | tx bytes =>
    simp only [State.perform, State.transmit] at h
    split at h
    · obtain rfl : _ = t := Run.finished.inj h
      constructor <;> simp [Micro.event, dcAfter, rstAfter, wireFrom, State.panelDuring]
    · cases h
    · cases h
  | delay n =>
    simp only [State.perform, State.pause] at h
    split at h
    · obtain rfl : _ = t := Run.finished.inj h
      constructor <;> simp [Micro.event, dcAfter, rstAfter, wireFrom, State.panelDuring]
    · cases h

/-- A run to the end of `ms`, the listed words of the bus and the delay service used up but for `rest` and `later`. -/
structure RanOk (ms : List Micro) (s t : State) (rest : List BusReply) (later : List DelayReply) : Prop extends RanTo ms s t where
  replies : t.replies = rest
  timer : t.timer = later
  draws : t.draws = s.draws

theorem RanOk.cons {m : Micro} {ms : List Micro} {s u t : State} {rest rest' : List BusReply} {later later' : List DelayReply}
    (h : RanOk [m] s u rest' later') (k : RanOk ms u t rest later) : RanOk (m :: ms) s t rest later :=
  ⟨h.toRanTo.cons k.toRanTo, k.replies, k.timer, k.draws.trans h.draws⟩

/-- The bus's listed answers and the delay service's listed word, one equation each. -/
theorem State.transmit_ok {s : State} {rest : List BusReply} (bytes : List Byte) (h : s.replies = .ok :: rest) :
    s.transmit bytes = .finished ((s.takeReply.record (.tx bytes .ok)).deliver bytes).advance := by
  simp only [State.transmit, State.nextReply_listed s h]

theorem State.transmit_err {s : State} {e : TransportError} {rest : List BusReply} (bytes : List Byte) (h : s.replies = .err e :: rest) :
    s.transmit bytes = .failed e ((s.takeReply.record (.tx bytes (.err e))).deliverPart bytes) := by
  simp only [State.transmit, State.nextReply_listed s h]

theorem State.pause_returned {s : State} {later : List DelayReply} (n : Nat) (h : s.timer = .returned :: later) :
    s.pause n = .finished (s.takeDelay.record (.delay n)).advance := by
  simp only [State.pause, State.nextDelay_listed s h]

/-- One micro-event, its collaborator's word listed. -/
theorem State.perform_ok (s : State) (m : Micro) (rest : List BusReply) (later : List DelayReply)
    (h : s.replies = List.replicate (txCount [m]) .ok ++ rest) (ht : s.timer = List.replicate (delayCount [m]) .returned ++ later) :
    ∃ t, s.perform m = .finished t ∧ RanOk [m] s t rest later := by
  cases m with
  | rstSet b => exact ⟨_, rfl, State.ranTo_one rfl, by simpa [txCount] using h, by simpa [delayCount] using ht, rfl⟩
  | dcSet b => exact ⟨_, rfl, State.ranTo_one rfl, by simpa [txCount] using h, by simpa [delayCount] using ht, rfl⟩
  | tx bytes =>
    have h' : s.replies = .ok :: rest := by simpa [txCount] using h
    have k := State.takeReply_listed s h'
    have hp := State.transmit_ok bytes h'
    exact ⟨_, hp, State.ranTo_one (m := .tx bytes) hp, by simpa using k.1, by simpa [delayCount] using ht, by simpa using k.2⟩
  | delay n =>
    have h' : s.timer = .returned :: later := by simpa [delayCount] using ht
    have k := State.takeDelay_listed s h'
    have hp := State.pause_returned n h'
    exact ⟨_, hp, State.ranTo_one (m := .delay n) hp, by simpa [txCount] using h, by simpa using k.1, by simpa using k.2⟩

/-- The words that `m :: ms` needs are those of `m` and then those of `ms`. -/
theorem replies_cons (m : Micro) (ms : List Micro) (rest : List BusReply) :
    List.replicate (txCount (m :: ms)) BusReply.ok ++ rest
      = List.replicate (txCount [m]) .ok ++ (List.replicate (txCount ms) .ok ++ rest) := by
  rw [← List.append_assoc, List.replicate_append_replicate, ← txCount_append]; rfl

theorem timer_cons (m : Micro) (ms : List Micro) (later : List DelayReply) :
    List.replicate (delayCount (m :: ms)) DelayReply.returned ++ later
      = List.replicate (delayCount [m]) .returned ++ (List.replicate (delayCount ms) .returned ++ later) := by
  rw [← List.append_assoc, List.replicate_append_replicate, ← delayCount_append]; rfl

/-- The spec lemma of `runMicros` where the bus answers `ok` to every transmission and every delay is over. -/
theorem runMicros_ok (ms : List Micro) (s : State) (rest : List BusReply) (later : List DelayReply)
    (h : s.replies = List.replicate (txCount ms) .ok ++ rest) (ht : s.timer = List.replicate (delayCount ms) .returned ++ later) :
    ∃ t, runMicros ms s = .finished t ∧ RanOk ms s t rest later := by
  induction ms generalizing s with
  | nil => exact ⟨s, rfl, RanTo.nil s, h, ht, rfl⟩
  | cons m ms ih =>
    obtain ⟨u, hu, ru⟩ := s.perform_ok m _ _ (h.trans (replies_cons m ms rest)) (ht.trans (timer_cons m ms later))
    obtain ⟨t, htt, rt⟩ := ih u ru.replies ru.timer
    exact ⟨t, by rw [runMicros_cons, hu]; exact htt, ru.cons rt⟩

/-- The spec lemma of `runMicros` where the micro-event after `pre` has no answer yet. -/
theorem runMicros_unanswered {pre : List Micro} {m : Micro} (post : List Micro) {s : State} {rest : List BusReply}
    {later : List DelayReply} (h : UnansweredAt s pre m rest later) :
    ∃ t, runMicros (pre ++ m :: post) s = .waiting t ∧ RanOk pre s t rest later := by
  rcases h with ⟨⟨bytes, rfl⟩, h, ht⟩ | ⟨⟨n, rfl⟩, h, ht⟩
  · obtain ⟨t, hr, k⟩ := runMicros_ok pre s _ _ h ht
    refine ⟨t.takeReply, ?_, ?_⟩
    · rw [runMicros_append, hr]
      simp only [runMicros_cons, State.perform, State.transmit, State.nextReply_listed t k.replies]
    · have k' := State.takeReply_listed t k.replies
      obtain ⟨⟨h1, h2, h3, h4, h5, h6, h7, h8⟩, _, h9, h10⟩ := k
      exact ⟨⟨by simpa using h1, by simpa using h2, by simpa using h3, by simpa using h4, by simpa using h5, by simpa using h6,
        by simpa using h7, by simpa using h8⟩, k'.1, by simpa using h9, k'.2.trans h10⟩
  · obtain ⟨t, hr, k⟩ := runMicros_ok pre s _ _ h ht
    refine ⟨t.takeDelay, ?_, ?_⟩
    · rw [runMicros_append, hr]
      simp only [runMicros_cons, State.perform, State.pause, State.nextDelay_listed t k.timer]
    · have k' := State.takeDelay_listed t k.timer
      obtain ⟨⟨h1, h2, h3, h4, h5, h6, h7, h8⟩, h9, _, h10⟩ := k
      exact ⟨⟨by simpa using h1, by simpa using h2, by simpa using h3, by simpa using h4, by simpa using h5, by simpa using h6,
        by simpa using h7, by simpa using h8⟩, by simpa using h9, k'.1, k'.2.trans h10⟩

/-- A run that failed at transmission `n` of `ms`. -/
structure RanErr (ms : List Micro) (n : Nat) (e : TransportError) (s t : State) (rest : List BusReply) (later : List DelayReply) : Prop where
  trace : t.trace = s.trace ++ errEvents ms n e
  dc : t.dc = dcAfter (beforeTx ms n) s.dc
  rst : t.rst = rstAfter (beforeTx ms n) s.rst
  received : ∃ part, part <+: (txAt ms n).map (fun b => (t.dc, b))
    ∧ t.received = s.received ++ wireFrom s.dc (okEvents (beforeTx ms n)) ++ part
  replies : t.replies = rest
  timer : t.timer = later
  draws : t.draws = s.draws + 1

/-- A micro-event before the failure. -/
theorem RanErr.cons {m : Micro} {ms : List Micro} {n : Nat} {e : TransportError} {s u t : State} {rest rest' : List BusReply}
    {later later' : List DelayReply} (h : RanOk [m] s u rest' later') (k : RanErr ms n e u t rest later) :
    RanErr (m :: ms) (n + txCount [m]) e s t rest later := by
  have hb : beforeTx (m :: ms) (n + txCount [m]) = m :: beforeTx ms n := by cases m <;> rfl
  have ha : txAt (m :: ms) (n + txCount [m]) = txAt ms n := by cases m <;> rfl
  obtain ⟨part, k1, k2⟩ := k.received
  refine ⟨?_, ?_, ?_, ⟨part, by rw [ha]; exact k1, ?_⟩, k.replies, k.timer, k.draws.trans (by rw [h.draws])⟩
  · rw [k.trace, h.trace, errEvents, errEvents, hb, ha]; simp
  · rw [k.dc, h.dc, hb]; cases m <;> rfl
  · rw [k.rst, h.rst, hb]; cases m <;> rfl
  · rw [k2, h.received, h.dc, hb]; cases m <;> simp [Micro.event, wireFrom, dcAfter]

/-- The spec lemma of `runMicros` where transmission `n` is the first that the bus answers with an error. -/
theorem runMicros_err (ms : List Micro) (s : State) (n : Nat) (e : TransportError) (rest : List BusReply) (later : List DelayReply)
    (hn : n < txCount ms) (h : s.replies = List.replicate n .ok ++ .err e :: rest)
    (ht : s.timer = List.replicate (delayCount (beforeTx ms n)) .returned ++ later) :
    ∃ t, runMicros ms s = .failed e t ∧ RanErr ms n e s t rest later := by
  induction ms generalizing s n with
  | nil => simp [txCount] at hn
  | cons m ms ih =>
    rw [runMicros_cons]
    by_cases hz : n < txCount [m]
    · cases m with
      | tx bytes =>
        obtain rfl : n = 0 := by simpa [txCount] using hz
        have h' : s.replies = .err e :: rest := by simpa using h
        have k := State.takeReply_listed s h'
        have hp : s.perform (.tx bytes) = _ := State.transmit_err bytes h'
        refine ⟨_, by rw [hp], ?_, ?_, ?_,
          ⟨(bytes.take (Config.deliveredCount s.takeReply.draws)).map fun b => (s.dc, b), ?_, ?_⟩, ?_, ?_, ?_⟩
        · simp [errEvents, beforeTx, txAt]
        · simp [beforeTx, dcAfter]
        · simp [beforeTx, rstAfter]
        · simpa [txAt] using (List.take_prefix (Config.deliveredCount s.takeReply.draws) bytes).map (fun b => (s.dc, b))
        · simp [beforeTx, wireFrom]
        · simpa using k.1
        · simpa [beforeTx, delayCount] using ht
        · simpa using k.2
      | rstSet b => simp [txCount] at hz
      | dcSet b => simp [txCount] at hz
      | delay d => simp [txCount] at hz
    · obtain ⟨n', rfl⟩ := Nat.exists_eq_add_of_le' (Nat.le_of_not_lt hz)
      have hn' : n' < txCount ms := by
        have := txCount_append [m] ms
        simp only [List.singleton_append] at this
        omega
      have hb : beforeTx (m :: ms) (n' + txCount [m]) = m :: beforeTx ms n' := by cases m <;> rfl
      rw [hb] at ht
      obtain ⟨u, hu, ru⟩ := s.perform_ok m (List.replicate n' .ok ++ .err e :: rest) _
        (by rw [h, Nat.add_comm, List.replicate_add, List.append_assoc]) (ht.trans (timer_cons m _ later))
      obtain ⟨t, htt, rt⟩ := ih u n' hn' ru.replies ru.timer
      exact ⟨t, by rw [hu]; exact htt, RanErr.cons ru rt⟩

/-- Everything a micro-program can do, whatever the collaborators say: perform all of itself; fail at one of its transmissions, of which
some prefix reached the panel; or stand before a transmission or a delay. -/
def RunSpec (ms : List Micro) (s : State) (r : Run) : Prop :=
  match r with
  | .finished t => RanTo ms s t
  | .failed e t => ∃ pre bytes post u part, ms = pre ++ .tx bytes :: post ∧ RanTo pre s u
      ∧ t.trace = u.trace ++ [.tx bytes (.err e)] ∧ t.dc = u.dc ∧ t.rst = u.rst ∧ t.upc = u.upc ∧ t.panel = u.panel
      ∧ part <+: bytes.map (fun b => (u.dc, b)) ∧ t.received = u.received ++ part
  | .waiting t => ∃ pre m post, ms = pre ++ m :: post ∧ m.isAnswered = true ∧ RanTo pre s t

theorem RunSpec.cons {m : Micro} {ms : List Micro} {s u : State} (h : RanTo [m] s u) {r : Run} (k : RunSpec ms u r) :
    RunSpec (m :: ms) s r := by
  cases r with
  | finished t => exact h.cons k
  | failed e t =>
    obtain ⟨pre, bytes, post, v, part, h1, h2, h3⟩ := k
    exact ⟨m :: pre, bytes, post, v, part, by simp [h1], h.cons h2, h3⟩
  | waiting t =>
    obtain ⟨pre, m', post, h1, h2, h3⟩ := k
    exact ⟨m :: pre, m', post, by simp [h1], h2, h.cons h3⟩

theorem runMicros_spec (ms : List Micro) (s : State) : RunSpec ms s (runMicros ms s) := by
  induction ms generalizing s with
  | nil => exact RanTo.nil s
  | cons m ms ih =>
    rw [runMicros_cons]
    cases hp : s.perform m with
    | finished u => exact RunSpec.cons (State.ranTo_one hp) (ih u)
    | failed e u =>
      cases m with
      | tx bytes =>
        simp only [State.perform, State.transmit] at hp
        split at hp <;> cases hp
        refine ⟨[], bytes, ms, s, _, rfl, RanTo.nil s, ?_, ?_, ?_, ?_, ?_,
          (List.take_prefix (Config.deliveredCount s.takeReply.draws) bytes).map _, ?_⟩ <;> simp
      | rstSet b => cases hp
      | dcSet b => cases hp
      | delay n => simp only [State.perform, State.pause] at hp; split at hp <;> cases hp
    | waiting u =>
      cases m with
      | tx bytes =>
        simp only [State.perform, State.transmit] at hp
        split at hp <;> cases hp
        refine ⟨[], .tx bytes, ms, rfl, rfl, ?_⟩
        constructor <;> simp [dcAfter, rstAfter, wireFrom]
      | rstSet b => cases hp
      | dcSet b => cases hp
      | delay n =>
        simp only [State.perform, State.pause] at hp
        split at hp <;> cases hp
        refine ⟨[], .delay n, ms, rfl, rfl, ?_⟩
        constructor <;> simp [dcAfter, rstAfter, wireFrom]

/-- What ends of an operation leave alone. -/
theorem State.complete_keeps (s : State) :
    s.complete.params = s.params ∧ s.complete.cfg = s.cfg ∧ s.complete.dc = s.dc ∧ s.complete.rst = s.rst ∧ s.complete.busy = false
      ∧ s.complete.latch = s.latch ∧ s.complete.drawing = none ∧ s.complete.received = s.received
      ∧ s.complete.requests = s.requests ∧ s.complete.replies = s.replies ∧ s.complete.timer = s.timer
      ∧ s.complete.draws = s.draws
      ∧ s.complete.panel = Panel.afterOk s.op s.params s.cfg s.latch s.panel
      ∧ s.complete.trace = s.trace ++ (if s.op.isHost then [.ret .ok] else []) := by
  unfold State.complete State.returnToHost
  split <;> simp_all

theorem State.abort_keeps (s : State) (e : TransportError) :
    (s.abort e).params = s.params ∧ (s.abort e).cfg = s.cfg ∧ (s.abort e).dc = s.dc ∧ (s.abort e).rst = s.rst
      ∧ (s.abort e).busy = false ∧ (s.abort e).latch = s.latch ∧ (s.abort e).drawing = none ∧ (s.abort e).received = s.received
      ∧ (s.abort e).requests = s.requests ∧ (s.abort e).replies = s.replies ∧ (s.abort e).timer = s.timer
      ∧ (s.abort e).draws = s.draws
      ∧ (s.abort e).panel = Panel.afterErr s.op s.panel
      ∧ (s.abort e).trace = s.trace ++ (if s.op.isHost then [.ret (.err e)] else []) := by
  unfold State.abort State.returnToHost
  split <;> simp_all

/-- A step is the operation in progress going on, nothing, or the next request's `exec`. -/
theorem step_cases {s t : State} (h : step s = .next t) :
    (s.busy = true ∧ t = s.resume)
    ∨ (s.busy = false ∧ s.requests = [] ∧ t = s)
    ∨ (s.busy = false ∧ ∃ i rest, s.requests = i :: rest ∧ exec i { s with requests := rest } = .next t) := by
  unfold step at h
  split at h
  · rename_i hb
    exact .inl ⟨hb, by simpa using h.symm⟩
  · rename_i hb
    have hb' : s.busy = false := by simpa using hb
    unfold State.fetch at h
    cases hr : s.requests with
    | nil =>
      rw [hr] at h
      exact .inr (.inl ⟨hb', rfl, by simpa using h.symm⟩)
    | cons i rest =>
      rw [hr] at h
      exact .inr (.inr ⟨hb', i, rest, rfl, by simpa using h⟩)

end Sys2Proof.Machine
end

