-- ==== Sys2Proof/Laws/Operations.lean ====
section
/-! SUPPORT. What an accepted operation does, said once for each of the collaborators' ways: every transmission answered `ok` and every
delay over, or transmission `n` the first to fail; and the gates before it. -/

namespace Sys2Proof.Machine

open Sys2Proof

/-- What INIT leaves of the panel does not depend on what was known while it ran. -/
theorem Panel.afterOk_panelDuring {s : State} {op : Operation} (h : s.op = op) (p : Params) (c : Cfg) (l : Latches) (n : Nat) :
    Panel.afterOk op p c l (s.panelDuring n) = Panel.afterOk op p c l s.panel := by
  by_cases ho : s.op = .init
  · rw [← h, ho]; rfl
  · rw [State.panelDuring_other ho]

theorem Panel.afterErr_panelDuring {s : State} {op : Operation} (h : s.op = op) (n : Nat) :
    Panel.afterErr op (s.panelDuring n) = Panel.afterErr op s.panel := by
  by_cases ho : s.op = .init
  · rw [← h, ho]; rfl
  · rw [State.panelDuring_other ho]

/-- The spec lemma of `resume` outside a DRAW where every transmission still to come succeeds and every delay ends: the operation is over, with
its events and, for one of the host's, its `RET`. -/
theorem State.resume_ok {s : State} (hdr : s.drawing = none) (rest : List BusReply) (later : List DelayReply)
    (h : s.replies = List.replicate (txCount (s.mprog.drop s.upc)) .ok ++ rest)
    (hd : s.timer = List.replicate (delayCount (s.mprog.drop s.upc)) .returned ++ later) :
    Completed s s.resume (okEvents (s.mprog.drop s.upc) ++ (if s.op.isHost then [.ret .ok] else [])) rest later
      ∧ s.resume.dc = dcAfter (s.mprog.drop s.upc) s.dc ∧ s.resume.rst = rstAfter (s.mprog.drop s.upc) s.rst
      ∧ s.resume.latch = s.latch ∧ s.resume.drawing = none
      ∧ s.resume.panel = Panel.afterOk s.op s.params s.cfg s.latch s.panel
      ∧ s.resume.received = s.received ++ wireFrom s.dc (okEvents (s.mprog.drop s.upc)) := by
  obtain ⟨t, ht, rt⟩ := runMicros_ok (s.mprog.drop s.upc) s rest later h hd
  have k := runMicros_kept (s.mprog.drop s.upc) s
  rw [ht] at k
  have htd : t.drawing = none := k.drawing.trans hdr
  have hs : s.resume = t.complete := by simp [State.resume, ht, Run.settle, htd]
  obtain ⟨c1, c2, c3, c4, c5, c6, c7, c8, c9, c10, c11, c12, c13, c14⟩ := t.complete_keeps
  have kop : t.op = s.op := k.op
  have kp : t.params = s.params := k.params
  have kc : t.cfg = s.cfg := k.cfg
  have kl : t.latch = s.latch := k.latch
  rw [hs]
  refine ⟨⟨c5, ?_, c10.trans rt.replies, c11.trans rt.timer, c1.trans kp, c2.trans kc, c9.trans k.requests, c12.trans rt.draws⟩,
    c3.trans rt.dc, c4.trans rt.rst, c6.trans kl, c7, ?_, c8.trans rt.received⟩
  · rw [c14, kop, rt.trace, List.append_assoc]
  · rw [c13, kop, kp, kc, kl, rt.panel]; exact Panel.afterOk_panelDuring rfl _ _ _ _

/-- The spec lemma of `start` where every transmission succeeds and every delay ends. -/
theorem State.start_ok (s : State) (op : Operation) (rest : List BusReply) (later : List DelayReply)
    (h : s.replies = List.replicate (txCount (s.expand op)) .ok ++ rest)
    (hd : s.timer = List.replicate (delayCount (s.expand op)) .returned ++ later) :
    Completed s (s.start op) (okEvents (s.expand op) ++ (if op.isHost then [.ret .ok] else [])) rest later
      ∧ (s.start op).dc = dcAfter (s.expand op) s.dc ∧ (s.start op).rst = rstAfter (s.expand op) s.rst
      ∧ (s.start op).latch = s.latch ∧ (s.start op).drawing = none
      ∧ (s.start op).panel = Panel.afterOk op s.params s.cfg s.latch s.panel
      ∧ (s.start op).received = s.received ++ wireFrom s.dc (okEvents (s.expand op)) :=
  State.resume_ok (s := s.accept op) rfl rest later h hd

/-- What an operation leaves, with the micro-events `ms` still to perform, whose transmission `n` was the first to fail. -/
structure Failed (ms : List Micro) (s t : State) (op : Operation) (n : Nat) (e : TransportError) (rest : List BusReply)
    (later : List DelayReply) : Prop where
  busy : t.busy = false
  drawing : t.drawing = none
  params : t.params = s.params
  cfg : t.cfg = s.cfg
  latch : t.latch = s.latch
  requests : t.requests = s.requests
  trace : t.trace = s.trace ++ errEvents ms n e ++ (if op.isHost then [.ret (.err e)] else [])
  dc : t.dc = dcAfter (beforeTx ms n) s.dc
  rst : t.rst = rstAfter (beforeTx ms n) s.rst
  received : ∃ part, part <+: (txAt ms n).map (fun b => (t.dc, b))
    ∧ t.received = s.received ++ wireFrom s.dc (okEvents (beforeTx ms n)) ++ part
  replies : t.replies = rest
  timer : t.timer = later
  draws : t.draws = s.draws + 1
  panel : t.panel = Panel.afterErr op s.panel

/-- The spec lemma of `resume`, in a DRAW or not, where transmission `n` of the micro-events still to come is the first to fail. -/
theorem State.resume_err (s : State) (n : Nat) (e : TransportError) (rest : List BusReply) (later : List DelayReply)
    (hn : n < txCount (s.mprog.drop s.upc)) (h : s.replies = List.replicate n .ok ++ .err e :: rest)
    (hd : s.timer = List.replicate (delayCount (beforeTx (s.mprog.drop s.upc) n)) .returned ++ later) :
    Failed (s.mprog.drop s.upc) s s.resume s.op n e rest later := by
  obtain ⟨t, ht, rt⟩ := runMicros_err (s.mprog.drop s.upc) s n e rest later hn h hd
  have k := runMicros_kept (s.mprog.drop s.upc) s
  have q := runMicros_spec (s.mprog.drop s.upc) s
  rw [ht] at k q
  obtain ⟨pre, _, _, u, _, _, hu, _, _, _, _, hpan, _, _⟩ := q
  have hs : s.resume = t.abort e := by simp [State.resume, ht, Run.settle]
  obtain ⟨c1, c2, c3, c4, c5, c6, c7, c8, c9, c10, c11, c12, c13, c14⟩ := t.abort_keeps e
  have kop : t.op = s.op := k.op
  obtain ⟨part, r1, r2⟩ := rt.received
  rw [hs]
  refine ⟨c5, c7, c1.trans k.params, c2.trans k.cfg, c6.trans k.latch, c9.trans k.requests, ?_, c3.trans rt.dc, c4.trans rt.rst,
    ⟨part, by rw [c3]; exact r1, c8.trans r2⟩, c10.trans rt.replies, c11.trans rt.timer, c12.trans rt.draws, ?_⟩
  · rw [c14, kop, rt.trace]
  · rw [c13, kop, hpan, hu.panel]; exact Panel.afterErr_panelDuring rfl _

/-- The spec lemma of `start` where transmission `n` is the first to fail. -/
theorem State.start_err (s : State) (op : Operation) (n : Nat) (e : TransportError) (rest : List BusReply) (later : List DelayReply)
    (hn : n < txCount (s.expand op)) (h : s.replies = List.replicate n .ok ++ .err e :: rest)
    (hd : s.timer = List.replicate (delayCount (beforeTx (s.expand op) n)) .returned ++ later) :
    Failed (s.expand op) s (s.start op) op n e rest later := by
  obtain ⟨f1, f2, f3, f4, f5, f6, f7, f8, f9, f10, f11, f12, f13, f14⟩ := (s.accept op).resume_err n e rest later hn h hd
  exact ⟨f1, f2, f3, f4, f5, f6, f7, f8, f9, f10, f11, f12, f13, f14⟩

/-- The spec lemma of `resume`, in a DRAW or not, where the micro-event after `pre` has no answer yet: held there, with the panel as while
it runs. -/
theorem State.resume_held {s : State} {pre post : List Micro} {m : Micro} {rest : List BusReply} {later : List DelayReply}
    (hb : s.busy = true) (hs : s.mprog.drop s.upc = pre ++ m :: post) (h : UnansweredAt s pre m rest later) :
    HeldAt s s.resume (okEvents pre) (s.upc + pre.length) rest later ∧ Kept s s.resume
      ∧ s.resume.dc = dcAfter pre s.dc ∧ s.resume.rst = rstAfter pre s.rst ∧ s.resume.panel = s.panelDuring pre.length
      ∧ s.resume.received = s.received ++ wireFrom s.dc (okEvents pre) := by
  obtain ⟨t, ht, rt⟩ := runMicros_unanswered post h
  have k := runMicros_kept (pre ++ m :: post) s
  rw [ht] at k
  have k : Kept s t := k
  have hr : s.resume = t := by simp [State.resume, hs, ht, Run.settle]
  rw [hr]
  exact ⟨⟨k.busy.trans hb, rt.trace, rt.upc, rt.replies, rt.timer, k.params, k.cfg, k.requests, rt.draws⟩, k, rt.dc, rt.rst, rt.panel,
    rt.received⟩

/-- SET_PIXEL is `start` after its latches. -/
theorem State.acceptPixel_resume (s : State) (x y c : Word) :
    (s.acceptPixel x y c).resume = ((s.latchPixel x y c).latchWindow x y x y).start .setPixel := rfl

/-- `whenIdle` answers a next state only from an idle state, and then it is its argument's. -/
theorem whenIdle_next {s t : State} {o : Host.Outcome State Fault Refusal} : whenIdle s o = .next t ↔ s.busy = false ∧ o = .next t := by
  unfold whenIdle
  cases s.busy <;> simp

theorem whenIdle_idle {s : State} (o : Host.Outcome State Fault Refusal) (h : s.busy = false) : whenIdle s o = o := by
  simp [whenIdle, h]

theorem issue_next {s t : State} {m : Mnemonic} {op : Operation} :
    issue s m op = .next t ↔ s.busy = false ∧ inTable s.params m = true ∧ t = s.start op := by
  unfold issue
  rw [whenIdle_next]
  cases inTable s.params m <;> simp [eq_comm (a := t)]

theorem primitive_next {s t : State} {op : Operation} : primitive s op = .next t ↔ s.busy = false ∧ t = s.start op := by
  unfold primitive
  rw [whenIdle_next]
  simp [eq_comm (a := t)]

end Sys2Proof.Machine
end

