-- ==== Sys2Proof/Laws/Inversion.lean ====
section
/-! SUPPORT. Everything a step can do, said once: which instructions are accepted, as which operation; and what an accepted operation, and
an operation that goes on, leave whatever the collaborators say. -/

namespace Sys2Proof.Machine

open Sys2Proof

/-- `s` with the operands of `i` latched. -/
def State.latchFor (s : State) (i : Instr) : State := { s with latch := i.latched s.latch }

@[simp] theorem State.latchFor_params (s : State) (i : Instr) : (s.latchFor i).params = s.params := rfl
@[simp] theorem State.latchFor_cfg (s : State) (i : Instr) : (s.latchFor i).cfg = s.cfg := rfl
@[simp] theorem State.latchFor_dc (s : State) (i : Instr) : (s.latchFor i).dc = s.dc := rfl
@[simp] theorem State.latchFor_rst (s : State) (i : Instr) : (s.latchFor i).rst = s.rst := rfl
@[simp] theorem State.latchFor_busy (s : State) (i : Instr) : (s.latchFor i).busy = s.busy := rfl
@[simp] theorem State.latchFor_op (s : State) (i : Instr) : (s.latchFor i).op = s.op := rfl
@[simp] theorem State.latchFor_upc (s : State) (i : Instr) : (s.latchFor i).upc = s.upc := rfl
@[simp] theorem State.latchFor_mprog (s : State) (i : Instr) : (s.latchFor i).mprog = s.mprog := rfl
@[simp] theorem State.latchFor_latch (s : State) (i : Instr) : (s.latchFor i).latch = i.latched s.latch := rfl
@[simp] theorem State.latchFor_drawing (s : State) (i : Instr) : (s.latchFor i).drawing = s.drawing := rfl
@[simp] theorem State.latchFor_trace (s : State) (i : Instr) : (s.latchFor i).trace = s.trace := rfl
@[simp] theorem State.latchFor_received (s : State) (i : Instr) : (s.latchFor i).received = s.received := rfl
@[simp] theorem State.latchFor_panel (s : State) (i : Instr) : (s.latchFor i).panel = s.panel := rfl
@[simp] theorem State.latchFor_requests (s : State) (i : Instr) : (s.latchFor i).requests = s.requests := rfl
@[simp] theorem State.latchFor_replies (s : State) (i : Instr) : (s.latchFor i).replies = s.replies := rfl
@[simp] theorem State.latchFor_timer (s : State) (i : Instr) : (s.latchFor i).timer = s.timer := rfl
@[simp] theorem State.latchFor_draws (s : State) (i : Instr) : (s.latchFor i).draws = s.draws := rfl
/-- The program an instruction accepts is the expansion of its operation over its operands. -/
theorem State.programOf_eq {i : Instr} {op : Operation} (s : State) (h : i.operation = some op) :
    s.programOf i = (s.latchFor i).expand op := by
  simp [State.programOf, h, State.expand, State.latchFor]

/-- An instruction with an operation answers a next state exactly where the block is idle and accepts it, and then that operation starts. -/
theorem exec_next {i : Instr} {op : Operation} {s t : State} (h : i.operation = some op) :
    exec i s = .next t ↔ s.busy = false ∧ i.acceptable s.params = true ∧ t = (s.latchFor i).start op := by
  cases i
  case new r g => simp [Instr.operation] at h
  case draw ps => simp [Instr.operation] at h
  case init =>
    obtain rfl : _ = op := Option.some.inj h
    have he : exec .init s = execInit s := rfl
    rw [he, execInit, whenIdle_next]
    simp only [Instr.acceptable, Instr.wellFormed, Instr.wireForm, Bool.true_and]
    cases hc : s.params.configuration with
    | none => simp
    | some l => cases ha : admissible s.params l <;> simp [ha, eq_comm (a := t), State.latchFor, Instr.latched]
  case writeData b =>
    obtain rfl : _ = op := Option.some.inj h
    have he : exec (.writeData b) s = (if b.isEmpty then .refused .emptyTransmission else primitive s (.writeData b)) := rfl
    rw [he]
    cases hb : b.isEmpty
    · simp only [Bool.false_eq_true, if_false, primitive_next]
      simp [Instr.acceptable, Instr.wellFormed, Instr.wireForm, hb, State.latchFor, Instr.latched]
    · simp [Instr.acceptable, Instr.wellFormed, hb]
  all_goals
    obtain rfl : _ = op := Option.some.inj h
    first
    | exact issue_next.trans (by simp [Instr.acceptable, Instr.wellFormed, Instr.wireForm, State.latchFor, Instr.latched])
    | exact primitive_next.trans (by
        simp [Instr.acceptable, Instr.wellFormed, Instr.wireForm, State.latchFor, Instr.latched, State.latchOrientation,
          State.latchPixel, State.latchWindow, be16])

/-- Every way an instruction answers a next state. -/
theorem exec_cases {i : Instr} {s t : State} (h : exec i s = .next t) :
    (∃ r g, i = .new r g)
    ∨ (∃ ps, i = .draw ps ∧ s.busy = false ∧ t = drawPixels ps s)
    ∨ (∃ op, i.operation = some op ∧ s.busy = false ∧ i.acceptable s.params = true ∧ t = (s.latchFor i).start op) := by
  cases hop : i.operation with
  | none =>
    cases i <;> first | (simp [Instr.operation] at hop; done) | skip
    · exact .inl ⟨_, _, rfl⟩
    · obtain ⟨hb, h⟩ := whenIdle_next.mp h
      exact .inr (.inl ⟨_, rfl, hb, by injection h with h; exact h.symm⟩)
  | some op => exact .inr (.inr ⟨op, rfl, (exec_next hop).mp h⟩)

/-- One equation per pixel of the drawing adapter (rule R230). -/
theorem drawPixels_cons (q : Pixel) (ps : List Pixel) (s : State) :
    drawPixels (q :: ps) s =
      (match runMicros (pixelProgram s.params q.x q.y q.color) (s.acceptDrawn q ps) with
      | .finished s' => drawPixels ps s'.panelAfterOk
      | .failed e s' => s'.abort e
      | .waiting s' => s') := rfl

/-- What an operation that is not part of a DRAW leaves, whatever the collaborators say, with the micro-events `ms` still to perform:
waiting, completed or failed; the levels are those of the micro-events performed, which end at the end or before one that waits for a
word. -/
structure WentOn (ms : List Micro) (s t : State) : Prop where
  params : t.params = s.params
  cfg : t.cfg = s.cfg
  latch : t.latch = s.latch
  requests : t.requests = s.requests
  op : t.op = s.op
  mprog : t.mprog = s.mprog
  drawing : t.drawing = none
  progress : ∃ pre, pre <+: ms ∧ t.dc = dcAfter pre s.dc ∧ t.rst = rstAfter pre s.rst
    ∧ ((t.busy = true ∧ t.busy = s.busy ∧ t.trace = s.trace ++ okEvents pre ∧ t.upc = s.upc + pre.length
          ∧ (∃ m, ms[pre.length]? = some m ∧ m.isAnswered = true) ∧ t.panel = s.panelDuring pre.length)
      ∨ (t.busy = false ∧ pre = ms ∧ t.trace = s.trace ++ okEvents ms ++ (if s.op.isHost then [.ret .ok] else [])
          ∧ t.panel = Panel.afterOk s.op s.params s.cfg s.latch s.panel)
      ∨ (t.busy = false ∧ ∃ bytes e, ms[pre.length]? = some (.tx bytes)
          ∧ t.trace = s.trace ++ okEvents pre ++ [.tx bytes (.err e)] ++ (if s.op.isHost then [.ret (.err e)] else [])
          ∧ t.panel = Panel.afterErr s.op s.panel))
  received : s.received <+: t.received

/-- The spec lemma of `runMicros` with what follows, no assumption on the collaborators. -/
theorem settle_wentOn (ms : List Micro) (s : State) (hb : s.busy = true) (hd : s.drawing = none) :
    WentOn ms s (runMicros ms s).settle := by
  have h := runMicros_spec ms s
  have k := runMicros_kept ms s
  cases hr : runMicros ms s with
  | finished t =>
    rw [hr] at h k
    have hdr : t.drawing = none := k.drawing.trans hd
    have hs : (Run.finished t).settle = t.complete := by simp [Run.settle, hdr]
    obtain ⟨c1, c2, c3, c4, c5, c6, c7, c8, c9, c10, c11, c12, c13, c14⟩ := t.complete_keeps
    have kop : t.op = s.op := k.op
    have kp : t.params = s.params := k.params
    have kc : t.cfg = s.cfg := k.cfg
    have kl : t.latch = s.latch := k.latch
    rw [hs]
    refine ⟨c1.trans kp, c2.trans kc, c6.trans kl, c9.trans k.requests, ?_, ?_, c7,
      ⟨ms, List.prefix_rfl, c3.trans h.dc, c4.trans h.rst, .inr (.inl ⟨c5, rfl, ?_, ?_⟩)⟩, ?_⟩
    · unfold State.complete; split <;> exact kop
    · unfold State.complete; split <;> exact k.mprog
    · rw [c14, kop, h.trace]
    · rw [c13, kop, kp, kc, kl, h.panel, Panel.afterOk_panelDuring rfl]
    · rw [c8, h.received]; exact List.prefix_append _ _
  | failed e t =>
    rw [hr] at h k
    obtain ⟨pre, bytes, post, u, part, g1, g2, g3, g4, g5, g6, g7, g8, g9⟩ := h
    obtain ⟨c1, c2, c3, c4, c5, c6, c7, c8, c9, c10, c11, c12, c13, c14⟩ := t.abort_keeps e
    have kop : t.op = s.op := k.op
    show WentOn ms s (t.abort e)
    refine ⟨c1.trans k.params, c2.trans k.cfg, c6.trans k.latch, c9.trans k.requests, ?_, ?_, c7,
      ⟨pre, ⟨_, g1.symm⟩, c3.trans (g4.trans g2.dc), c4.trans (g5.trans g2.rst), .inr (.inr ⟨c5, bytes, e, by simp [g1], ?_, ?_⟩)⟩, ?_⟩
    · unfold State.abort; split <;> exact kop
    · unfold State.abort; split <;> exact k.mprog
    · rw [c14, kop, g3, g2.trace]
    · rw [c13, kop, g7, g2.panel, Panel.afterErr_panelDuring rfl]
    · rw [c8, g9, g2.received, List.append_assoc]; exact List.prefix_append _ _
  | waiting t =>
    rw [hr] at h k
    obtain ⟨pre, m, post, g1, g2, g3⟩ := h
    have kb : t.busy = s.busy := k.busy
    show WentOn ms s t
    refine ⟨k.params, k.cfg, k.latch, k.requests, k.op, k.mprog, k.drawing.trans hd,
      ⟨pre, ⟨_, g1.symm⟩, g3.dc, g3.rst, .inl ⟨kb.trans hb, kb, g3.trace, g3.upc, ⟨m, by simp [g1], g2⟩, g3.panel⟩⟩, ?_⟩
    rw [g3.received]; exact List.prefix_append _ _

/-- The spec lemma of `start`, no assumption on the collaborators. -/
theorem State.start_wentOn (s : State) (op : Operation) : WentOn (s.expand op) (s.accept op) (s.start op) :=
  settle_wentOn (s.expand op) (s.accept op) rfl rfl

/-- The spec lemma of `resume` outside a DRAW, no assumption on the collaborators. -/
theorem State.resume_wentOn {s : State} (hb : s.busy = true) (hd : s.drawing = none) : WentOn (s.mprog.drop s.upc) s s.resume :=
  settle_wentOn _ s hb hd

/-- What a DRAW leaves, with the pixels `ps` to come, in terms of a relation `R` that a completed pixel, the end and a pixel that stops
keep. -/
theorem drawPixels_induct {R : State → State → Prop} (hend : ∀ s, R s (s.returnToHost .ok))
    (hpixel : ∀ s q ps t, runMicros (pixelProgram s.params q.x q.y q.color) (s.acceptDrawn q ps) = .finished t →
      ∀ u, R t.panelAfterOk u → R s u)
    (hfail : ∀ s q ps e t, runMicros (pixelProgram s.params q.x q.y q.color) (s.acceptDrawn q ps) = .failed e t → R s (t.abort e))
    (hwait : ∀ s q ps t, runMicros (pixelProgram s.params q.x q.y q.color) (s.acceptDrawn q ps) = .waiting t → R s t)
    (ps : List Pixel) (s : State) : R s (drawPixels ps s) := by
  induction ps generalizing s with
  | nil => exact hend s
  | cons q ps ih =>
    rw [drawPixels_cons]
    cases hr : runMicros (pixelProgram s.params q.x q.y q.color) (s.acceptDrawn q ps) with
    | finished t => exact hpixel s q ps t hr _ (ih _)
    | failed e t => exact hfail s q ps e t hr
    | waiting t => exact hwait s q ps t hr

end Sys2Proof.Machine
end

