-- ==== Sys2Proof/Laws/Micro.lean ====
section
/-! SUPPORT. Micro-programs put together: levels, transmissions, wire view and duration of a concatenation, of WRITE_COMMAND, and of
what precedes a transmission. -/

namespace Sys2Proof.Machine

open Sys2Proof

theorem dcAfter_append (ms ns : List Micro) (d : Level) : dcAfter (ms ++ ns) d = dcAfter ns (dcAfter ms d) := by
  induction ms generalizing d with
  | nil => rfl
  | cons m ms ih => cases m <;> simp [dcAfter, ih]

theorem rstAfter_append (ms ns : List Micro) (r : Level) : rstAfter (ms ++ ns) r = rstAfter ns (rstAfter ms r) := by
  induction ms generalizing r with
  | nil => rfl
  | cons m ms ih => cases m <;> simp [rstAfter, ih]

/-- The wire view of two micro-programs one after the other. -/
theorem wireFrom_okEvents_append (d : Level) (ms ns : List Micro) :
    wireFrom d (okEvents (ms ++ ns)) = wireFrom d (okEvents ms) ++ wireFrom (dcAfter ms d) (okEvents ns) := by
  induction ms generalizing d with
  | nil => rfl
  | cons m ms ih =>
    simp only [okEvents_append] at ih
    cases m <;> simp [Micro.event, wireFrom, dcAfter, ih]

theorem minMillis_append (a b : List Event) : minMillis (a ++ b) = minMillis a + minMillis b := by
  induction a with
  | nil => simp [minMillis]
  | cons e a ih => cases e <;> simp [minMillis, ih]; omega

theorem countEvents_append (f : Event → Bool) (a b : List Event) : countEvents f (a ++ b) = countEvents f a + countEvents f b := by
  simp [countEvents]

/-- Everything about WRITE_COMMAND(m, ps) as a micro-program (rule R151). -/
theorem writeCommand_laws (p : Params) (m : Mnemonic) (ps : List Byte) :
    okEvents (writeCommand p m ps) = commandEvents (opByte p m) ps ∧ txCount (writeCommand p m ps) = commandTx ps
      ∧ (∀ d, dcAfter (writeCommand p m ps) d = if ps.isEmpty then .low else .high)
      ∧ (∀ r, rstAfter (writeCommand p m ps) r = r)
      ∧ ∀ d, wireFrom d (okEvents (writeCommand p m ps)) = (.low, opByte p m) :: ps.map (fun b => (.high, b)) := by
  cases ps <;> exact ⟨rfl, rfl, fun _ => rfl, fun _ => rfl, fun _ => by simp [writeCommand, Micro.event, wireFrom, level]⟩

theorem configure_cons (p : Params) (e : CfgEntry) (l : List CfgEntry) :
    configure p (e :: l) = writeCommand p e.mnemonic e.params ++ configure p l := rfl

/-- A micro-program is what comes before its transmission `n`, that transmission, and the rest. -/
theorem beforeTx_split (ms : List Micro) (n : Nat) (h : n < txCount ms) :
    ∃ post, ms = beforeTx ms n ++ .tx (txAt ms n) :: post := by
  induction ms generalizing n with
  | nil => simp [txCount] at h
  | cons m ms ih =>
    cases m with
    | tx b =>
      cases n with
      | zero => exact ⟨ms, rfl⟩
      | succ n =>
        obtain ⟨post, hp⟩ := ih n (by simpa [txCount] using h)
        exact ⟨post, congrArg (Micro.tx b :: ·) hp⟩
    | rstSet b =>
      obtain ⟨post, hp⟩ := ih n (by simpa [txCount] using h)
      exact ⟨post, congrArg (Micro.rstSet b :: ·) hp⟩
    | dcSet b =>
      obtain ⟨post, hp⟩ := ih n (by simpa [txCount] using h)
      exact ⟨post, congrArg (Micro.dcSet b :: ·) hp⟩
    | delay d =>
      obtain ⟨post, hp⟩ := ih n (by simpa [txCount] using h)
      exact ⟨post, congrArg (Micro.delay d :: ·) hp⟩

theorem txCount_beforeTx (ms : List Micro) (n : Nat) (h : n < txCount ms) : txCount (beforeTx ms n) = n := by
  induction ms generalizing n with
  | nil => simp [txCount] at h
  | cons m ms ih =>
    cases m with
    | tx b =>
      cases n with
      | zero => rfl
      | succ n => simp [beforeTx, txCount, ih n (by simpa [txCount] using h)]
    | rstSet b => exact ih n (by simpa [txCount] using h)
    | dcSet b => exact ih n (by simpa [txCount] using h)
    | delay d => exact ih n (by simpa [txCount] using h)

end Sys2Proof.Machine
end

