-- ==== Sys2Proof/Laws/PerInstr.lean ====
section
/-! SUPPORT. Statements about every instruction as syntax, one lemma per constructor. WireShape: what is sent for an instruction is one
opcode byte with the selector low, then parameter bytes with the selector high (rules R62, R81, R92). -/

namespace Sys2Proof.Laws.WireShape

open Sys2Proof

/-- Whatever the block's table, the encoding of `i`, where it has one, is an opcode byte and then parameters (rule R81). -/
def Statement (i : Instr) : Prop :=
  ∀ (p : Params) (ws : List WirePair), encode p i = some ws →
    ∃ (op : Byte) (ps : List Byte), ws = (.low, op) :: ps.map (fun b => (.high, b))

/-- The encoder has one form. -/
theorem holds (i : Instr) : Statement i := by
  intro p ws h
  unfold encode at h
  split at h
  · simp at h
  · rename_i m ps _
    split at h
    · exact ⟨opByte p m, ps, by simpa using h.symm⟩
    · simp at h

theorem swreset : Statement .swreset := holds _

theorem slpin (ps : List Byte) : Statement (.slpin ps) := holds _

theorem slpout : Statement .slpout := holds _

theorem ptlon (ps : List Byte) : Statement (.ptlon ps) := holds _

theorem noron (ps : List Byte) : Statement (.noron ps) := holds _

theorem invoff : Statement .invoff := holds _

theorem invon : Statement .invon := holds _

theorem dispoff (ps : List Byte) : Statement (.dispoff ps) := holds _

theorem dispon : Statement .dispon := holds _

theorem caset (first last : Word) : Statement (.caset first last) := holds _

theorem raset (first last : Word) : Statement (.raset first last) := holds _

theorem ramwr (color : Word) : Statement (.ramwr color) := holds _

theorem ramrd (ps : List Byte) : Statement (.ramrd ps) := holds _

theorem madctl (p : Byte) : Statement (.madctl p) := holds _

theorem colmod (p : Byte) : Statement (.colmod p) := holds _

theorem frmctr1 (ps : List Byte) : Statement (.frmctr1 ps) := holds _

theorem frmctr2 (ps : List Byte) : Statement (.frmctr2 ps) := holds _

theorem frmctr3 (ps : List Byte) : Statement (.frmctr3 ps) := holds _

theorem invctr (ps : List Byte) : Statement (.invctr ps) := holds _

theorem pwctr1 (ps : List Byte) : Statement (.pwctr1 ps) := holds _

theorem pwctr2 (ps : List Byte) : Statement (.pwctr2 ps) := holds _

theorem pwctr3 (ps : List Byte) : Statement (.pwctr3 ps) := holds _

theorem pwctr4 (ps : List Byte) : Statement (.pwctr4 ps) := holds _

theorem pwctr5 (ps : List Byte) : Statement (.pwctr5 ps) := holds _

theorem vmctr1 (ps : List Byte) : Statement (.vmctr1 ps) := holds _

theorem gmctrp1 (ps : List Byte) : Statement (.gmctrp1 ps) := holds _

theorem gmctrn1 (ps : List Byte) : Statement (.gmctrn1 ps) := holds _

theorem new (rgb inv : Bool) : Statement (.new rgb inv) := holds _

theorem init : Statement .init := holds _

theorem setOrientation (o : Orientation) : Statement (.setOrientation o) := holds _

theorem setPixel (x y color : Word) : Statement (.setPixel x y color) := holds _

theorem draw (pixels : List Pixel) : Statement (.draw pixels) := holds _

theorem setAddressWindow (x0 y0 x1 y1 : Word) : Statement (.setAddressWindow x0 y0 x1 y1) := holds _

theorem writeCommand (m : Mnemonic) (ps : List Byte) : Statement (.writeCommand m ps) := holds _

theorem startData : Statement .startData := holds _

theorem writeData (bytes : List Byte) : Statement (.writeData bytes) := holds _

theorem writeWord (v : Word) : Statement (.writeWord v) := holds _

theorem hardReset : Statement .hardReset := holds _

theorem delayMs (n : Nat) : Statement (.delayMs n) := holds _

end Sys2Proof.Laws.WireShape
end

