-- ==== Sys2Proof/Tests/Slice0.lean ====
section
/-! SUPPORT. Tests: the WellFormed smoke test, words decoded and encoded, one step on small states, and for every statement with
hypotheses a witness that meets them. Expected results are those of spec/95_test_vectors.md (S and V numbers) or of the rule named. -/

namespace Sys2Proof.Tests

open Sys2Proof Sys2Proof.Machine

/-- The REF parameters with delays 5, 120, 10 and a 128 by 160 panel. -/
def refParams : Params := Params.ref 5 120 10 ⟨128, 160⟩

/-- The REF parameters of the newer generation, no `CFG(GEN_NEWER)`. -/
def newerParams : Params := { refParams with gen := .newer }

/-- A fresh RGB, non-inverted block of the REF instance whose bus gives these answers next, and whose next three delays end. -/
def rig (replies : List BusReply) : State :=
  { State.reset with
    params := refParams, cfg := ⟨true, false⟩, replies := replies, timer := [.returned, .returned, .returned] }

/-- The same with BGR order and inverted polarity. -/
def rigBgr (replies : List BusReply) : State := { rig replies with cfg := ⟨false, true⟩ }

/-- The same block on the newer table. -/
def rigNewer (replies : List BusReply) : State := { rig replies with params := newerParams }

/-- The same block on an older table without FRMCTR2 and with one further code, 0xD0 (rule R126). -/
def otherTable : Params := { refParams with olderOnly := { refParams.olderOnly with frmctr2 := none, further := [0xD0] } }

/-- A panel whose one required command is SWRESET, which owes a settle delay (rule R292, U6). -/
def unsettling : Params := { refParams with cfgOlder := [⟨.swreset, []⟩], panelSequence := [⟨.swreset, []⟩] }

/-- Opcodes that collide: INVON has INVOFF's byte (rule R141). -/
def colliding : Params := { refParams with commonOlder := { refParams.commonOlder with invon := 0x20 } }

/-- After an INIT that returned `Ok`. -/
def rigReady (replies : List BusReply) : State := { rig replies with panel := Panel.initialised refParams ⟨true, false⟩ }

def oks (n : Nat) : List BusReply := List.replicate n .ok

/-- The one number that is an error in every instance (log entry 10). -/
def busError : TransportError := ⟨0, .inl rfl⟩

def nextOf : Host.Outcome State Fault Refusal → Option State
  | .next t => some t
  | .fault _ => none
  | .refused _ => none

def refusalOf : Host.Outcome State Fault Refusal → Option Refusal
  | .next _ => none
  | .fault _ => none
  | .refused r => some r

/-- The trace after one instruction on a state. -/
def traceOf (i : Instr) (s : State) : Option (List Event) := (nextOf (exec i s)).map State.trace

/-- The instruction and the rest that the decoder of the REF table reads. -/
def readRef (ws : List WirePair) : Option (Instr × List WirePair) :=
  match decode refParams ws with
  | .ok r => some r
  | .error _ => none

def errorRef (ws : List WirePair) : Option DecodeError :=
  match decode refParams ws with
  | .ok _ => none
  | .error e => some e

/-! ### Well-formedness -/

/-- Rule R153: a transmission carries at least one byte. -/
theorem test_illformed_empty_write_data : Instr.wellFormed (.writeData []) = false := by decide

theorem test_wellformed_write_data : Instr.wellFormed (.writeData [0x00]) = true := by decide

/-! ### Decoding: words written out from the rules' encodings -/

/-- R111: 00000001. -/
theorem test_decode_swreset : readRef [(.low, 0b00000001#8)] = some (.swreset, []) := by decide

/-- R112 (REF 0x10), R113: 00010001. -/
theorem test_decode_sleep :
    readRef [(.low, 0b00010000#8), (.low, 0x11)] = some (.slpin [], [(.low, 0x11)]) ∧ readRef [(.low, 0b00010001#8)] = some (.slpout, []) := by
  decide

/-- R114, R115 (REF 0x12, 0x13). -/
theorem test_decode_partial_normal :
    readRef [(.low, 0b00010010#8)] = some (.ptlon [], []) ∧ readRef [(.low, 0b00010011#8)] = some (.noron [], []) := by decide

/-- R116, R117 (REF 0x20, 0x21). -/
theorem test_decode_polarity :
    readRef [(.low, 0b00100000#8)] = some (.invoff, []) ∧ readRef [(.low, 0b00100001#8)] = some (.invon, []) := by decide

/-- R118 (REF 0x28), R119: 00101001. -/
theorem test_decode_display :
    readRef [(.low, 0b00101000#8)] = some (.dispoff [], []) ∧ readRef [(.low, 0b00101001#8)] = some (.dispon, []) := by decide

/-- R85, R120, R121: the window commands of V50, end to end, big-endian, start first. -/
theorem test_decode_window :
    readRef [(.low, 0b00101010#8), (.high, 0x00), (.high, 0x00), (.high, 0x00), (.high, 0x7F), (.low, 0x2B)]
        = some (.caset 0x0000 0x007F, [(.low, 0x2B)])
    ∧ readRef [(.low, 0b00101011#8), (.high, 0x01), (.high, 0x34), (.high, 0xFF), (.high, 0x00)]
        = some (.raset 0x0134 0xFF00, []) := by decide

/-- R86, R122, R123 (REF 0x2E). -/
theorem test_decode_memory :
    readRef [(.low, 0b00101100#8), (.high, 0xF8), (.high, 0x1F)] = some (.ramwr 0xF81F, [])
    ∧ readRef [(.low, 0b00101110#8)] = some (.ramrd [], []) := by decide

/-- R83, R124, R125. -/
theorem test_decode_one_parameter :
    readRef [(.low, 0b00110110#8), (.high, 0x68)] = some (.madctl 0x68, [])
    ∧ readRef [(.low, 0b00111010#8), (.high, 0x05)] = some (.colmod 0x05, []) := by decide

/-- R84, R127 to R130 (REF 0xB1 to 0xB4). -/
theorem test_decode_frame_rate :
    readRef [(.low, 0b10110001#8), (.high, 0x01), (.high, 0x2C), (.high, 0x2D)] = some (.frmctr1 [0x01, 0x2C, 0x2D], [])
    ∧ readRef [(.low, 0b10110010#8)] = some (.frmctr2 [], []) ∧ readRef [(.low, 0b10110011#8)] = some (.frmctr3 [], [])
    ∧ readRef [(.low, 0b10110100#8), (.high, 0x07)] = some (.invctr [0x07], []) := by decide

/-- R131 to R136 (REF 0xC0 to 0xC5); the byte C5 is an opcode or a parameter by the selector alone (V22). -/
theorem test_decode_power :
    readRef [(.low, 0b11000001#8), (.high, 0xC5), (.low, 0xC5)] = some (.pwctr2 [0xC5], [(.low, 0xC5)])
    ∧ readRef [(.low, 0b11000101#8), (.high, 0x0E)] = some (.vmctr1 [0x0E], []) := by decide

/-- R131, R133, R134, R135 (REF 0xC0, 0xC2, 0xC3, 0xC4). -/
theorem test_decode_power_more :
    readRef [(.low, 0b11000000#8)] = some (.pwctr1 [], []) ∧ readRef [(.low, 0b11000010#8)] = some (.pwctr3 [], [])
    ∧ readRef [(.low, 0b11000011#8)] = some (.pwctr4 [], []) ∧ readRef [(.low, 0b11000100#8)] = some (.pwctr5 [], []) := by decide

/-- R137, R138 (REF 0xE0, 0xE1). -/
theorem test_decode_gamma :
    readRef [(.low, 0b11100000#8)] = some (.gmctrp1 [], []) ∧ readRef [(.low, 0b11100001#8)] = some (.gmctrn1 [], []) := by decide

/-- R91, R62, R82: no opcode, a parameter first, a parameter too many, nothing. -/
theorem test_decode_rejects :
    errorRef [(.low, 0x00)] = some (.unknownOpcode 0x00) ∧ errorRef [(.high, 0x2C)] = some .parameterWithoutOpcode
    ∧ errorRef [(.low, 0x29), (.high, 0x00)] = some (.wrongParameterCount .dispon 1) ∧ errorRef [] = some .noByte
    ∧ errorRef [(.low, 0x2A), (.high, 0x00), (.high, 0x01), (.high, 0x00)] = some (.wrongParameterCount .caset 3)
    ∧ errorRef [(.undriven, 0x2A)] = some .selectorUndriven := by decide

/-- R89, R139: an older-only opcode is no opcode of the newer table. -/
theorem test_decode_newer_rejects :
    (match decode newerParams [(.low, 0xB1)] with | .ok _ => none | .error e => some e) = some (.unknownOpcode 0xB1) := by decide

/-- R126: the members of the older-only codes are the configuration's. -/
theorem test_decode_other_table :
    (match decode otherTable [(.low, 0xB2)] with | .ok _ => none | .error e => some e) = some (.unknownOpcode 0xB2)
    ∧ (match decode otherTable [(.low, 0xD0)] with | .ok _ => none | .error e => some e) = some (.furtherOpcode 0) := by decide

/-- The table's words: opcode bits only, operand bytes read as zeros. -/
theorem test_decode_table_word :
    decodeTableWord 8 0x2A = some (.caset 0 0) ∧ decodeTableWord 8 0x36 = some (.madctl 0) ∧ decodeTableWord 8 0x05 = none := by decide

/-- R120: the word goes out high byte first. -/
theorem test_encode_caset :
    encode refParams (.caset 0x00FF 0xFF00)
      = some [(.low, 0x2A), (.high, 0x00), (.high, 0xFF), (.high, 0xFF), (.high, 0x00)] := by decide

/-- R50's four boundary values. -/
theorem test_big_endian :
    be16 0x0000 = [0x00, 0x00] ∧ be16 0xFFFF = [0xFF, 0xFF] ∧ be16 0x00FF = [0x00, 0xFF] ∧ be16 0xFF00 = [0xFF, 0x00] := by decide

/-! ### Wire commands on their own -/

/-- R111, R113, R119, the examples; the delays are the rig's. -/
theorem test_settling :
    traceOf .swreset (rig [.ok]) = some [.dc false, .tx [0x01] .ok, .delay 5]
    ∧ traceOf .slpout (rig [.ok]) = some [.dc false, .tx [0x11] .ok, .delay 120]
    ∧ traceOf .dispon (rig [.ok]) = some [.dc false, .tx [0x29] .ok, .delay 10] := by decide

/-- R242: the settle delay of a failed software reset is not performed. -/
theorem test_swreset_fails : traceOf .swreset (rig [.err busError]) = some [.dc false, .tx [0x01] (.err busError)] := by decide

/-- R120's example. -/
theorem test_caset :
    traceOf (.caset 0x0012 0x0012) (rig (oks 3))
      = some [.dc false, .tx [0x2A] .ok, .dc true, .tx [0x00, 0x12] .ok, .tx [0x00, 0x12] .ok] := by decide

/-- R122's example. -/
theorem test_ramwr :
    traceOf (.ramwr 0xF81F) (rig (oks 2)) = some [.dc false, .tx [0x2C] .ok, .dc true, .tx [0xF8, 0x1F] .ok] := by decide

/-- V3: `DC0 TX[C2] DC1 TX[0A 00]`. -/
theorem test_pwctr3 :
    traceOf (.pwctr3 [0x0A, 0x00]) (rig (oks 2)) = some [.dc false, .tx [0xC2] .ok, .dc true, .tx [0x0A, 0x00] .ok] := by decide

/-- R91, R139. -/
theorem test_older_only_refused_on_newer :
    refusalOf (exec (.gmctrn1 []) (rigNewer (oks 1))) = some (.opcodeNotInTable .gmctrn1) := by decide

/-- R91, R126: a code the older table does not hold is not sent, a further one it holds is. -/
theorem test_other_table :
    refusalOf (exec (.frmctr2 []) { rig (oks 1) with params := otherTable }) = some (.opcodeNotInTable .frmctr2)
    ∧ traceOf (.writeCommand (.further 0) [0x01]) { rig (oks 2) with params := otherTable }
        = some [.dc false, .tx [0xD0] .ok, .dc true, .tx [0x01] .ok]
    ∧ refusalOf (exec (.writeCommand (.further 1) []) { rig (oks 2) with params := otherTable }) = some (.opcodeNotInTable (.further 1)) := by
  decide

/-! ### Micro-operations -/

/-- V1, V6: the drive is not skipped when the selector is low already. -/
theorem test_write_command_always_drives :
    traceOf (.writeCommand .swreset []) { rig [.ok] with dc := .low } = some [.dc false, .tx [0x01] .ok] := by decide

/-- V5. -/
theorem test_write_command_parameter_fails :
    traceOf (.writeCommand .madctl [0x08]) (rig [.ok, .err busError])
      = some [.dc false, .tx [0x36] .ok, .dc true, .tx [0x08] (.err busError)] := by decide

/-- V7. -/
theorem test_start_data : traceOf .startData (rig []) = some [.dc true] := by decide

/-- V8: the selector is left as it is. -/
theorem test_write_data :
    (nextOf (exec (.writeData [0xAA, 0xBB, 0xCC]) { rig [.ok] with dc := .high })).map (fun t => (t.trace, t.dc))
      = some ([.tx [0xAA, 0xBB, 0xCC] .ok], .high) := by decide

/-- V13: the two bytes are one transmission. -/
theorem test_write_word_fails : traceOf (.writeWord 0xABCD) (rig [.err busError]) = some [.tx [0xAB, 0xCD] (.err busError)] := by decide

/-- V15: from `rst = 1` the first drive is not skipped. -/
theorem test_hard_reset :
    (nextOf (exec .hardReset { rig [] with rst := .high })).map (fun t => (t.trace, t.rst))
      = some ([.rst true, .rst false, .rst true], .high) := by decide

/-- V16. -/
theorem test_delay_zero : traceOf (.delayMs 0) (rig []) = some [.delay 0] := by decide

/-- R258, R264: a delay that is not over is held. -/
theorem test_delay_held :
    (nextOf (exec (.delayMs 7) { rig [] with timer := [.wait] })).map (fun t => (t.busy, t.trace)) = some (true, []) := by decide

/-- V51: an inverted window goes out as given. -/
theorem test_inverted_window :
    traceOf (.setAddressWindow 5 7 2 3) (rig (oks 6))
      = some [.dc false, .tx [0x2A] .ok, .dc true, .tx [0x00, 0x05] .ok, .tx [0x00, 0x02] .ok,
              .dc false, .tx [0x2B] .ok, .dc true, .tx [0x00, 0x07] .ok, .tx [0x00, 0x03] .ok] := by decide

/-- R60, U4: the panel retains the whole screen as its window; of one that ends a column outside nothing is known. -/
theorem test_window_is_retained :
    (nextOf (exec (.setAddressWindow 0 0 127 159) (rigReady (oks 6)))).map (fun t => (t.panel.columns, t.panel.rows))
      = some (some ⟨0, 127⟩, some ⟨0, 159⟩)
    ∧ (nextOf (exec (.setAddressWindow 0 0 128 159) (rigReady (oks 6)))).map (fun t => (t.panel.columns, t.panel.rows, t.panel.madctl))
      = some (none, none, none) := by decide

/-- R101, R141: where INVON has INVOFF's byte, the decoder reads it as the first listed (log entry 25). -/
theorem test_decode_shared_byte : mnemonicOf colliding 0x20 = some .invoff := by decide

/-! ### Host operations -/

/-- V80. -/
theorem test_new :
    (nextOf (exec (.new false true) (rig [.ok]))).map (fun t => (t.cfg, t.trace, t.dc, t.rst, t.busy))
      = some (⟨false, true⟩, [], .undriven, .undriven, false) := by decide

/-- V22: the bytes sent with the selector low, and the 62 events and the RET. -/
theorem test_init_opcodes :
    (traceOf .init (rig (oks 28))).map (fun tr => (((wireView tr).filter fun w => w.1 == .low).map Prod.snd, tr.length, tr.getLast?))
      = some ([0x01, 0x11, 0xB1, 0xB2, 0xB3, 0xB4, 0xC0, 0xC1, 0xC2, 0xC3, 0xC4, 0xC5, 0x20, 0x36, 0x3A, 0x29], 63,
          some (.ret .ok)) := by decide

/-- V30, row 24, on the BGR inverted block: 53 events, the last the failed MADCTL opcode; the polarity command is 0x21 (V23). -/
theorem test_init_fails_at_24 :
    (traceOf .init (rigBgr (oks 23 ++ [.err busError]))).map (fun tr => (tr.length, tr.drop 50))
      = some (54, [.tx [0x21] .ok, .dc false, .tx [0x36] (.err busError), .ret (.err busError)]) := by decide

/-- V42: SET_ORIENTATION(ROTATED), BGR. -/
theorem test_orientation_bgr :
    traceOf (.setOrientation .rotated) (rigBgr (oks 2))
      = some [.dc false, .tx [0x36] .ok, .dc true, .tx [0x68] .ok, .ret .ok] := by decide

/-- V40: SET_ORIENTATION(MIRRORED_A), RGB. -/
theorem test_orientation_rgb :
    traceOf (.setOrientation .mirroredA) (rig (oks 2))
      = some [.dc false, .tx [0x36] .ok, .dc true, .tx [0xC0] .ok, .ret .ok] := by decide

/-- V56, the wire view. -/
theorem test_pixel_wire :
    (traceOf (.setPixel 0x0012 0x0134 0xF81F) (rig (oks 8))).map wireView
      = some [(.low, 0x2A), (.high, 0x00), (.high, 0x12), (.high, 0x00), (.high, 0x12), (.low, 0x2B), (.high, 0x01), (.high, 0x34),
              (.high, 0x01), (.high, 0x34), (.low, 0x2C), (.high, 0xF8), (.high, 0x1F)] := by decide

/-- V60, N = 4. -/
theorem test_pixel_fails_at_4 :
    traceOf (.setPixel 0x0012 0x0134 0xF81F) (rig (oks 3 ++ [.err busError]))
      = some [.dc false, .tx [0x2A] .ok, .dc true, .tx [0x00, 0x12] .ok, .tx [0x00, 0x12] .ok,
              .dc false, .tx [0x2B] (.err busError), .ret (.err busError)] := by decide

/-- S7, V75: the first pixel in full, the second fails at its first transmission, no third. -/
theorem test_draw_stops :
    (traceOf (.draw [⟨1, 1, 0xFFFF⟩, ⟨2, 2, 0x0000⟩, ⟨3, 3, 0x1111⟩]) (rig (oks 8 ++ [.err busError]))).map (fun tr => (tr.length, tr.drop 12))
      = some (17, [.dc true, .tx [0xFF, 0xFF] .ok, .dc false, .tx [0x2A] (.err busError), .ret (.err busError)]) := by decide

/-- V76: two pixels at one place; the panel ends with the second (rule R66). -/
theorem test_draw_overwrites :
    (nextOf (exec (.draw [⟨5, 5, 0x0001⟩, ⟨5, 5, 0x0002⟩]) (rigReady (oks 16)))).map (fun t => (t.cell 5 5, t.cell 5 6))
      = some (some 0x0002, none) := by decide

/-- R66 premise (b): column 128 is outside the 128 columns, column 127 is inside. -/
theorem test_pixel_at_the_edge :
    (nextOf (exec (.setPixel 127 159 0x1234) (rigReady (oks 8)))).map (fun t => t.cell 127 159) = some (some 0x1234)
    ∧ (nextOf (exec (.setPixel 128 159 0x1234) (rigReady (oks 8)))).map (fun t => t.cell 128 159) = some none := by decide

/-- R124: the whole memory-access-control byte is replaced; U4, R264: of a range outside the panel nothing is known, nor of any register. -/
theorem test_wire_commands_on_the_panel :
    (nextOf (exec (.madctl 0xC8) (rigReady (oks 2)))).map (fun t => (t.panel.cfg, t.panel.madctl, t.panel.frame)) = some (.ok, some 0xC8, none)
    ∧ (nextOf (exec (.caset 3 128) (rigReady (oks 3)))).map (fun t => (t.panel.columns, t.panel.madctl, t.panel.polarity))
        = some (none, none, none) := by decide

/-- R65, R183, U10: in another pixel format two colour bytes are no known cell, and no register is known after them. -/
theorem test_pixel_in_another_format :
    let p := (Panel.initialised refParams ⟨true, false⟩).commanded refParams .colmod [0x06]
    p.pixelFormat = some 0x06
    ∧ (nextOf (exec (.setPixel 1 1 0x1234) { rigReady (oks 8) with panel := p })).map
        (fun t => (t.cell 1 1, t.panel.cfg, t.panel.columns, t.panel.pixelFormat)) = some (none, .ok, none, none) := by decide

/-- R262: held after the software reset, an INIT leaves the panel asleep; R177: of an empty `CFG` nothing is claimed; R285, R291: nor in a
first INIT, or in one retried after a failure. -/
theorem test_asleep_until_sleep_out :
    (nextOf (exec .init (rigReady [.ok, .wait]))).map (fun t => (t.upc, t.panel.awake, t.panel.madctl)) = some (7, some false, none)
    ∧ (nextOf (exec .init { rigReady [.ok, .wait] with params := { refParams with cfgOlder := [] } })).map (fun t => (t.upc, t.panel.awake))
        = some (7, none)
    ∧ (nextOf (exec .init (rig [.ok, .wait]))).map (fun t => (t.upc, t.panel)) = some (7, Panel.blank .never)
    ∧ (nextOf (exec .init { rig [.ok, .wait] with panel := Panel.lost })).map (fun t => (t.upc, t.panel)) = some (7, Panel.blank .unknown) := by
  decide

/-- R141: INVON and INVOFF with one byte: INIT sends it, and nothing is claimed of the panel. -/
theorem test_colliding_opcodes :
    colliding.wellFormed = false ∧ refParams.wellFormed = true
    ∧ (nextOf (exec .init { rig (oks 28) with params := colliding })).map (fun t => (t.trace.length, t.panel)) = some (63, Panel.blank .ok) := by
  decide

/-- R141, D9: the machine at reset passes the check, whatever the free values are. -/
theorem test_built_wellFormed : State.reset.params.wellFormed = true := built_wellFormed

/-- R262, R281: SWRESET alone; on a panel that INIT did not bring up with its own sequence not even sleep is known. -/
theorem test_swreset_on_the_panel :
    (nextOf (exec .swreset (rigReady [.ok]))).map (fun t => (t.panel.cfg, t.panel.awake)) = some (.unknown, some false)
    ∧ (nextOf (exec .swreset { rig [.ok] with panel := Panel.blank .ok })).map State.panel = some (Panel.blank .unknown) := by decide

/-- R203: `MADCTL_INIT_BASE` is the NORMAL byte of REF, so INIT leaves the NORMAL orientation; R177: of another sequence nothing is claimed,
and R292, U6: nor of one with an entry that owes a settle delay. -/
theorem test_frame_after_init :
    (nextOf (exec .init (rig (oks 28)))).map (fun t => t.panel.frame) = some (some (.oriented .normal))
    ∧ (nextOf (exec .init { rig (oks 8) with params := { refParams with cfgOlder := [] } })).map State.panel = some (Panel.blank .ok)
    ∧ (nextOf (exec .init { rig (oks 9) with params := unsettling })).map State.panel = some (Panel.blank .ok) := by
  decide

/-- R252: the request is held while an operation is in progress, and run after it. -/
theorem test_request_is_held :
    (nextOf (step { rig [.wait, .ok] with requests := [.writeWord 0x1234, .startData] })).map (fun t => (t.busy, t.requests, t.trace))
      = some (true, [.startData], []) := by decide

/-! ### Witnesses: states and operands that meet a statement's hypotheses -/

/-- An INIT in progress at position `u`, of a panel never brought up; the bus has not answered what comes after. -/
def held (u : Nat) : State :=
  { rig [.ok, .wait] with busy := true, upc := u, mprog := initProgram refParams ⟨true, false⟩ refSequence }

/-- A SET_ORIENTATION in progress before its opcode transmission, these requests waiting. -/
def heldOrientation (is : List Instr) : State :=
  { rig [.ok, .ok] with
    busy := true, op := .setOrientation, upc := 1, mprog := orientationProgram refParams ⟨true, false⟩ .normal, requests := is }

theorem reset_panel_inv (p : Params) : Panel.reset.Inv p :=
  ⟨rfl, fun _ => ⟨rfl, by decide⟩, fun _ => rfl, by simp [Panel.reset, Panel.blank], by simp [Panel.reset, Panel.blank],
    by simp [Panel.reset, Panel.blank]⟩

theorem held_inv (u : Nat) (hu : u ≤ 62) (h5 : u < 5) : (held u).Inv :=
  ⟨⟨by simp [held], by simp [held, rig, State.reset], fun _ => ⟨hu, rfl, fun _ => rfl, by simp [held, rig, State.reset]⟩⟩,
    fun _ _ _ => by
      have h : ¬ 5 ≤ u := by omega
      simp [held, rig, State.reset, Panel.broughtUp, Panel.reset, Panel.blank, h],
    reset_panel_inv _⟩

theorem heldOrientation_inv (is : List Instr) : (heldOrientation is).Inv :=
  ⟨⟨by simp [heldOrientation], by simp [heldOrientation, rig, State.reset],
      fun _ => ⟨(by decide : 1 ≤ 4), rfl, by simp [heldOrientation], by simp [heldOrientation]⟩⟩,
    fun _ h => by simp [heldOrientation] at h, reset_panel_inv _⟩

theorem test_witness_SettlingCommandsComplete :
    (rig [.ok]).busy = false ∧ (rig [.ok]).replies = .ok :: [] ∧ (rig [.ok]).timer = .returned :: [.returned, .returned] := by decide

theorem test_witness_PolarityCommandsComplete : (rig [.ok, .wait]).busy = false ∧ (rig [.ok, .wait]).replies = .ok :: [.wait] := by decide

theorem test_witness_UnissuedCommonCommandsComplete :
    (rig (oks 2)).busy = false ∧ (rig (oks 2)).replies = List.replicate (commandTx [0x00]) .ok ++ []
    ∧ (rig (oks 1)).replies = List.replicate (commandTx []) .ok ++ [] := by decide

theorem test_witness_OlderCommandsComplete :
    (rig (oks 2)).busy = false ∧ (rig (oks 2)).params.gen = .older
    ∧ (rig (oks 2)).replies = List.replicate (commandTx [0x01, 0x2C, 0x2D]) .ok ++ []
    ∧ (rig (oks 2)).params.olderOnly.frmctr1 = some 0xB1 ∧ (rig (oks 2)).params.olderOnly.gmctrn1 = some 0xE1 := by decide

theorem test_witness_OlderCommandsRefusedOnNewer :
    (rigNewer []).busy = false ∧ (rigNewer []).params.gen = .newer ∧ (Instr.frmctr1 [0x00]).wireForm = some (.frmctr1, [0x00])
    ∧ inTable newerParams .frmctr1 = false ∧ otherTable.gen = .older ∧ otherTable.olderOnly.frmctr2 = none
    ∧ inTable otherTable .frmctr2 = false := by decide

theorem test_witness_RangeCommandsComplete : (rig (oks 3)).busy = false ∧ (rig (oks 3)).replies = List.replicate 3 .ok ++ [] := by decide

theorem test_witness_ParameterCommandsComplete :
    (rig (oks 2)).busy = false ∧ (rig (oks 2)).replies = List.replicate 2 .ok ++ [] := by decide

theorem test_witness_WriteCommandCompletes :
    (rig (oks 2)).busy = false ∧ inTable (rig (oks 2)).params .pwctr1 = true
    ∧ (rig (oks 2)).replies = List.replicate (commandTx [0xA2, 0x02, 0x84]) .ok ++ [] := by decide

/-- The first, the second and the third transmission; of SET_ADDRESS_WINDOW the sixth. -/
theorem test_witness_WireAndMicroFailure :
    (rig [.err busError]).busy = false ∧ (rig [.err busError]).replies = .err busError :: [] ∧ inTable refParams .swreset = true
    ∧ Instr.swreset.wireForm = some (.swreset, []) ∧ (Instr.madctl 0x08).wireForm = some (.madctl, [0x08])
    ∧ inTable refParams .madctl = true ∧ ([0x08] : List Byte) ≠ []
    ∧ (rig [.ok, .err busError]).busy = false ∧ (rig [.ok, .err busError]).replies = .ok :: .err busError :: []
    ∧ (rig [.ok, .ok, .err busError]).busy = false ∧ (rig [.ok, .ok, .err busError]).replies = .ok :: .ok :: .err busError :: []
    ∧ (rig (oks 5 ++ [.err busError])).busy = false ∧ 5 < 6 ∧ (rig (oks 5 ++ [.err busError])).replies = List.replicate 5 .ok ++ .err busError :: [] := by
  decide

theorem test_witness_StartDataCompletes : (rig []).busy = false := by decide

theorem test_witness_WriteDataCompletes :
    (rig [.ok]).busy = false ∧ ([0x00] : List Byte) ≠ [] ∧ (rig [.ok]).replies = .ok :: [] := by decide

theorem test_witness_EmptyWriteDataRefused : (Instr.writeData []).wellFormed = false := by decide

theorem test_witness_WriteWordCompletes :
    (rig [.ok]).busy = false ∧ (rig [.ok]).replies = .ok :: [] ∧ (rig [.err busError]).busy = false
    ∧ (rig [.err busError]).replies = .err busError :: [] := by decide

theorem test_witness_HardResetCompletes : { rig [] with rst := .high }.busy = false := by decide

theorem test_witness_DelayCompletes :
    (rig []).busy = false ∧ (rig []).timer = .returned :: [.returned, .returned] ∧ (∃ t, exec (.delayMs 0) (rig []) = .next t)
    ∧ { rig [] with timer := [.wait, .returned] }.timer = .wait :: .returned :: [] := ⟨rfl, rfl, ⟨_, rfl⟩, rfl⟩

/-- An idle block; a panel under its premises, with the last column and row, one beyond, and an inverted range; one in an unknown frame; and two
panels of which a premise fails. -/
theorem test_witness_AddressWindowCompletes :
    (rig (oks 6)).busy = false ∧ (rig (oks 6)).replies = List.replicate 6 .ok ++ [] ∧ (rig (oks 6)).panel.cfg ≠ .ok
    ∧ (Panel.blank .ok).calibrated = false
    ∧ (let s := rigReady (oks 6)
      s.panel.cfg = .ok ∧ s.panel.calibrated = true ∧ s.panel.frame = some (.oriented .normal)
      ∧ (127 : Word).toNat < (frameSize s.params (.oriented .normal)).width
      ∧ ¬ (128 : Word).toNat < (frameSize s.params (.oriented .normal)).width
      ∧ (159 : Word).toNat < (frameSize s.params (.oriented .normal)).height
      ∧ ¬ (160 : Word).toNat < (frameSize s.params (.oriented .normal)).height ∧ ¬ (5 : Word).toNat ≤ (2 : Word).toNat
      ∧ (s.panel.commanded refParams .madctl [0x00]).cfg = .ok ∧ (s.panel.commanded refParams .madctl [0x00]).calibrated = true
      ∧ (s.panel.commanded refParams .madctl [0x00]).frame = none) := by decide

theorem test_witness_InitCompletes :
    (rig (oks 28)).busy = false ∧ (rig (oks 28)).params.configuration = some refParams.cfgOlder
    ∧ (∀ e ∈ refParams.cfgOlder, inTable (rig (oks 28)).params e.mnemonic = true)
    ∧ (rig (oks 28)).replies = List.replicate (8 + (refParams.cfgOlder.map fun e => commandTx e.params).sum) .ok ++ []
    ∧ (rig (oks 28)).timer = List.replicate 3 .returned ++ [] := by decide

theorem test_witness_InitPulsesResetFirst :
    (rig []).busy = false ∧ (rig []).params.configuration = some refParams.cfgOlder ∧ admissible (rig []).params refParams.cfgOlder = true := by
  decide

/-- The last transmission of the REF INIT is number 27, counted from 0 (V30). -/
theorem test_witness_InitResult :
    let s := rig (oks 27 ++ [.err busError])
    s.busy = false ∧ s.params.configuration = some refParams.cfgOlder ∧ admissible s.params refParams.cfgOlder = true
    ∧ 27 < txCount (initProgram s.params s.cfg refParams.cfgOlder) ∧ ¬ 28 < txCount (initProgram s.params s.cfg refParams.cfgOlder)
    ∧ s.replies = List.replicate 27 .ok ++ .err busError :: []
    ∧ s.timer = List.replicate (delayCount (beforeTx (initProgram s.params s.cfg refParams.cfgOlder) 27)) .returned ++ [.returned]
    ∧ s.timer = List.replicate 3 .returned ++ []
    ∧ (rig (oks 28)).replies = List.replicate (txCount (initProgram s.params s.cfg refParams.cfgOlder)) .ok ++ [] := by decide

theorem test_witness_InitRefusals :
    (rigNewer []).busy = false ∧ (rigNewer []).params.gen = .newer ∧ (rigNewer []).params.cfgNewer = none
    ∧ { newerParams with cfgNewer := some [⟨.frmctr1, []⟩] }.configuration = some [⟨.frmctr1, []⟩]
    ∧ inTable { newerParams with cfgNewer := some [⟨.frmctr1, []⟩] } .frmctr1 = false := by decide

theorem test_witness_SetOrientationCompletes :
    (rigBgr (oks 2)).busy = false ∧ (rigBgr (oks 2)).replies = List.replicate 2 .ok ++ []
    ∧ (rigBgr (oks 2)).params = Params.ref 5 120 10 ⟨128, 160⟩ := by decide

theorem test_witness_SetOrientationFailure :
    (rig [.err busError]).busy = false ∧ (rig [.err busError]).replies = .err busError :: [] ∧ (rig [.ok, .err busError]).busy = false
    ∧ (rig [.ok, .err busError]).replies = .ok :: .err busError :: [] := by decide

theorem test_witness_SetPixelCompletes : (rig (oks 8)).busy = false ∧ (rig (oks 8)).replies = List.replicate 8 .ok ++ [] := by decide

theorem test_witness_SetPixelInterleaving :
    ∃ t, (rig (oks 8)).busy = false ∧ (rig (oks 8)).replies = List.replicate 8 .ok ++ []
      ∧ exec (.setPixel 0xFFFF 0x0000 0x00FF) (rig (oks 8)) = .next t := ⟨_, by decide, by decide, rfl⟩

theorem test_witness_SetPixelAbortsAtFirstFailure :
    (rig (oks 7 ++ [.err busError])).busy = false ∧ 7 < 8 ∧ (rig (oks 7 ++ [.err busError])).replies = List.replicate 7 .ok ++ .err busError :: [] := by decide

theorem test_witness_DrawCompletes :
    (rig (oks 16)).busy = false
    ∧ (rig (oks 16)).replies = List.replicate (8 * ([⟨1, 1, 0xFFFF⟩, ⟨2, 2, 0⟩] : List Pixel).length) .ok ++ []
    ∧ (rig []).replies = List.replicate (8 * ([] : List Pixel).length) .ok ++ [] := by decide

theorem test_witness_DrawStopsAtFirstFailure :
    (rig (oks 8 ++ [.err busError])).busy = false ∧ 0 < 8
    ∧ (rig (oks 8 ++ [.err busError])).replies = List.replicate (8 * ([⟨1, 1, 0xFFFF⟩] : List Pixel).length + 0) .ok ++ .err busError :: [] := by decide

theorem test_witness_GenerationsAgree :
    ∃ t u, exec (.setOrientation .rotated) (rig (oks 2)) = .next t
      ∧ exec (.setOrientation .rotated) { rig (oks 2) with params := { (rig (oks 2)).params with gen := .newer } } = .next u :=
  ⟨_, _, rfl, rfl⟩

/-- The last column and row, one beyond, a panel never brought up, one that requires another sequence, and a DRAW that names a location twice
and one location outside. -/
theorem test_witness_PixelWriteEffect :
    let s := rigReady (oks 8)
    s.busy = false ∧ s.replies = List.replicate 8 .ok ++ [] ∧ s.panel.cfg = .ok ∧ s.panel.calibrated = true ∧ s.panel.wordCells = true
    ∧ inFrame s.params s.panel.frame 127 159 = true ∧ inFrame s.params s.panel.frame 128 159 = false
    ∧ inFrame s.params s.panel.frame 127 160 = false ∧ (rig (oks 8)).panel.cfg ≠ .ok
    ∧ (rigReady (oks 24)).replies = List.replicate (8 * ([⟨1, 1, 1⟩, ⟨2, 2, 2⟩, ⟨1, 1, 3⟩] : List Pixel).length) .ok ++ []
    ∧ (∀ q ∈ ([⟨1, 1, 1⟩, ⟨2, 2, 2⟩, ⟨1, 1, 3⟩] : List Pixel), inFrame s.params s.panel.frame q.x q.y = true)
    ∧ lastColour [⟨1, 1, 1⟩, ⟨2, 2, 2⟩, ⟨1, 1, 3⟩] 1 1 = some 3 ∧ lastColour [⟨1, 1, 1⟩] 2 2 = none
    ∧ ([⟨200, 1, 1⟩, ⟨2, 2, 2⟩] : List Pixel) = [⟨200, 1, 1⟩] ++ ⟨2, 2, 2⟩ :: [] := by decide

/-- A SET_PIXEL at once, and one that goes on, each make a cell known. -/
theorem test_witness_OnlyPixelsReachMemory :
    (∃ t, exec (.setPixel 1 1 9) (rigReady (oks 8)) = .next t ∧ t.panel.fm.read (cellKey 1 1) = some 9
      ∧ (rigReady (oks 8)).panel.fm.read (cellKey 1 1) ≠ some 9)
    ∧ ∃ s t, exec (.draw [⟨1, 1, 9⟩, ⟨2, 2, 8⟩]) (rigReady (.wait :: oks 16)) = .next s ∧ s.busy = true ∧ step s = .next t
      ∧ t.panel.fm.read (cellKey 2 2) = some 8 ∧ s.panel.fm.read (cellKey 2 2) ≠ some 8 :=
  ⟨⟨_, rfl, by decide, by decide⟩, _, _, rfl, by decide, rfl, by decide, by decide⟩

theorem test_witness_PanelCfgFollowsResults :
    (∃ t, Instr.isHostOperation .init = true ∧ exec .init (rig (oks 28)) = .next t ∧ t.busy = false
      ∧ t.trace.getLast? = some (.ret .ok))
    ∧ (∃ t, Instr.isHostOperation .init = true ∧ exec .init (rig [.err busError]) = .next t ∧ t.busy = false
      ∧ t.trace.getLast? = some (.ret (.err busError)))
    ∧ (∃ s t, exec (.setPixel 1 1 9) (rigReady (.wait :: oks 8)) = .next s ∧ s.busy = true ∧ s.op.isHost = true ∧ step s = .next t
      ∧ t.busy = false ∧ t.trace.getLast? = some (.ret .ok) ∧ t.panel.cfg = .ok)
    ∧ (∃ s t, exec .init (rig [.wait, .err busError]) = .next s ∧ s.busy = true ∧ s.op = .init ∧ step s = .next t
      ∧ t.busy = false ∧ t.trace.getLast? = some (.ret (.err busError)) ∧ t.panel.cfg = .unknown) :=
  ⟨⟨_, by decide, rfl, by decide⟩, ⟨_, by decide, rfl, by decide⟩,
    ⟨_, _, rfl, by decide, by decide, rfl, by decide, by decide, by decide⟩,
    ⟨_, _, rfl, by decide, by decide, rfl, by decide, by decide, by decide⟩⟩

/-- The required sequence is sent; an empty one, another one, one with an entry that owes a settle delay, and one with colliding opcodes. -/
theorem test_sends_required :
    SendsRequired refParams ∧ ¬ SendsRequired { refParams with cfgOlder := [], panelSequence := [] }
    ∧ ¬ SendsRequired { refParams with cfgOlder := [] } ∧ ¬ SendsRequired unsettling ∧ ¬ SendsRequired colliding := by
  unfold SendsRequired; decide

/-- P5, from a block that INIT has brought up; a SET_ORIENTATION that was held; REF's two bytes are equal, and `CFG` is the panel's sequence or not. -/
theorem test_witness_OrientationRegister :
    (∃ t u, (rigReady (oks 30)).panel.cfg = .ok ∧ (rigReady (oks 30)).panel.calibrated = true
      ∧ exec (.setOrientation .mirroredA) (rigReady (oks 30)) = .next t ∧ t.trace.getLast? = some (.ret .ok) ∧ t.busy = false
      ∧ exec .init t = .next u ∧ u.trace.getLast? = some (.ret .ok) ∧ u.busy = false)
    ∧ (∃ t, (heldOrientation []).Inv ∧ (heldOrientation []).busy = true ∧ (heldOrientation []).op = .setOrientation
      ∧ (heldOrientation []).latch.ori = .normal ∧ step (heldOrientation []) = .next t ∧ t.busy = false ∧ t.trace.getLast? = some (.ret .ok)
      ∧ (heldOrientation []).panel.cfg ≠ .ok)
    ∧ (∃ t u, exec (.setOrientation .normal) { rigReady (oks 11) with params := unsettling } = .next t
      ∧ t.trace.getLast? = some (.ret .ok) ∧ t.busy = false
      ∧ exec .init t = .next u ∧ u.trace.getLast? = some (.ret .ok) ∧ u.busy = false)
    ∧ SendsRequired refParams ∧ refParams.oriv.normal = refParams.madctlInitBase ∧ ¬ SendsRequired unsettling :=
  ⟨⟨_, _, by decide, by decide, rfl, by decide, by decide, rfl, by decide, by decide⟩,
    ⟨_, heldOrientation_inv [], rfl, rfl, rfl, rfl, by decide, by decide, by decide⟩,
    ⟨_, _, rfl, by decide, by decide, rfl, by decide, by decide⟩, test_sends_required.1, by decide, test_sends_required.2.2.2.1⟩

/-- An INIT at once; one held in its first step; one that goes on from there, in a state that meets the invariant; and both clauses with a
`CFG` of which nothing is claimed. -/
theorem test_witness_InitEstablishes :
    (∃ t, exec .init (rigBgr (oks 28)) = .next t ∧ t.busy = false ∧ t.trace.getLast? = some (.ret .ok))
    ∧ (∃ t, exec .init (rig [.wait]) = .next t ∧ t.busy = true)
    ∧ (∃ s t, State.Inv s ∧ s.busy = true ∧ s.op = .init ∧ step s = .next t ∧ t.busy = true ∧ t.upc = 7)
    ∧ (∃ t, exec .init { rig (oks 9) with params := unsettling } = .next t ∧ t.busy = false ∧ t.trace.getLast? = some (.ret .ok))
    ∧ (∃ t, exec .init { rig [.ok, .wait] with params := unsettling } = .next t ∧ t.busy = true ∧ t.upc = 7)
    ∧ (∃ t, exec .init (rigReady [.ok, .wait]) = .next t ∧ t.busy = true ∧ t.upc = 7 ∧ (rigReady [.ok, .wait]).panel.cfg = .ok)
    ∧ (∃ t, exec .init (rig [.ok, .wait]) = .next t ∧ t.busy = true ∧ t.upc = 7 ∧ (rig [.ok, .wait]).panel.cfg ≠ .ok)
    ∧ SendsRequired refParams ∧ ¬ SendsRequired unsettling :=
  ⟨⟨_, rfl, by decide, by decide⟩, ⟨_, rfl, by decide⟩,
    ⟨held 3, _, held_inv 3 (by decide) (by decide), rfl, rfl, rfl, by decide, by decide⟩, ⟨_, rfl, by decide, by decide⟩,
    ⟨_, rfl, by decide, by decide⟩, ⟨_, rfl, by decide, by decide, by decide⟩, ⟨_, rfl, by decide, by decide, by decide⟩, test_sends_required.1,
    test_sends_required.2.2.2.1⟩

/-- The last column and the last row, one beyond each, an inverted range, a one-pixel window and none, and the pixel
format of INIT and another. -/
theorem test_witness_WireCommandPanelEffects :
    let s := rigReady (oks 3)
    s.busy = false ∧ s.panel.cfg = .ok ∧ s.panel.calibrated = true ∧ s.panel.frame = some (.oriented .normal)
    ∧ s.replies = List.replicate 3 .ok ++ [] ∧ s.timer = .returned :: [.returned, .returned]
    ∧ (0 : Word).toNat ≤ (127 : Word).toNat ∧ (127 : Word).toNat < (frameSize s.params (.oriented .normal)).width
    ∧ ¬ (128 : Word).toNat < (frameSize s.params (.oriented .normal)).width
    ∧ (159 : Word).toNat < (frameSize s.params (.oriented .normal)).height
    ∧ ¬ (160 : Word).toNat < (frameSize s.params (.oriented .normal)).height ∧ ¬ (2 : Word).toNat ≤ (1 : Word).toNat
    ∧ (s.panel.pixelWritten refParams ⟨4, 5, 0, .normal, 4, 5, 4, 5⟩).columns = some ⟨4, 4⟩
    ∧ (s.panel.pixelWritten refParams ⟨4, 5, 0, .normal, 4, 5, 4, 5⟩).rows = some ⟨5, 5⟩ ∧ s.panel.columns = none ∧ s.panel.wordCells = true
    ∧ (s.panel.commanded refParams .colmod [0x06]).wordCells = false
    ∧ (Instr.gmctrn1 [0x01]).wireForm = some (.gmctrn1, [0x01]) ∧ inTable s.params .gmctrn1 = true := by decide

/-- The second transmission of a SET_PIXEL, the last of an INIT with its two delays before it, and the first of the second pixel of a DRAW. -/
theorem test_witness_FailedTransmissionDeliversPrefix :
    let s := rig (oks 27 ++ [.err busError])
    (rig (oks 1 ++ [.err busError])).busy = false ∧ (Instr.setPixel 1 2 3).acceptable refParams = true
    ∧ 1 < txCount ((rig (oks 1 ++ [.err busError])).programOf (.setPixel 1 2 3))
    ∧ (rig (oks 1 ++ [.err busError])).replies = List.replicate 1 .ok ++ .err busError :: []
    ∧ s.busy = false ∧ Instr.init.acceptable s.params = true ∧ 27 < txCount (s.programOf .init)
    ∧ s.replies = List.replicate 27 .ok ++ .err busError :: []
    ∧ s.timer = List.replicate (delayCount (beforeTx (s.programOf .init) 27)) .returned ++ [.returned]
    ∧ (rig (oks 8 ++ [.err busError])).replies = List.replicate (8 * ([⟨1, 1, 1⟩] : List Pixel).length + 0) .ok ++ .err busError :: [] := by decide

theorem test_witness_ConfigurationIsFixed :
    ((∃ t, exec .init (rig [.err busError]) = .next t ∧ ∀ r g, Instr.init ≠ .new r g) ∧ ∃ t, exec (.new false true) (rig []) = .next t)
    ∧ (∃ s t, exec .swreset { rig [.wait, .ok] with requests := [.init] } = .next s ∧ s.busy = true ∧ step s = .next t)
    ∧ ∃ t, step { rig [.ok] with requests := [.swreset] } = .next t ∧ { rig [.ok] with requests := [.swreset] }.busy = false
      ∧ ∀ r g, { rig [.ok] with requests := [.swreset] }.requests.head? ≠ some (.new r g) :=
  ⟨⟨⟨_, rfl, by simp⟩, _, rfl⟩, ⟨_, _, rfl, by decide, rfl⟩, _, rfl, rfl, by simp⟩

theorem test_witness_ResetLineFrame :
    ((∃ t, exec .init (rig (oks 28)) = .next t) ∧ (∃ t, exec .hardReset (rig []) = .next t)
    ∧ ∃ t, exec (.caset 1 2) (rig (oks 3)) = .next t ∧ (∀ r g, Instr.caset 1 2 ≠ .new r g) ∧ Instr.caset 1 2 ≠ .init
      ∧ Instr.caset 1 2 ≠ .hardReset)
    ∧ (∃ t, (held 0).Inv ∧ (held 0).busy = true ∧ step (held 0) = .next t ∧ t.rst = .high)
    ∧ ∃ t, (heldOrientation []).Inv ∧ (heldOrientation []).busy = true ∧ step (heldOrientation []) = .next t
      ∧ (heldOrientation []).op ≠ .init ∧ (heldOrientation []).op ≠ .hardReset :=
  ⟨⟨⟨_, rfl⟩, ⟨_, rfl⟩, _, rfl, by simp, by simp, by simp⟩, ⟨_, held_inv 0 (by decide) (by decide), rfl, rfl, by decide⟩,
    _, heldOrientation_inv [], rfl, rfl, by decide, by decide⟩

theorem test_witness_SelectorFrame :
    ((∃ t, exec (.writeData [0x00]) (rig [.ok]) = .next t) ∧ (∃ t, exec (.draw []) (rig []) = .next t)
    ∧ ∃ t, exec (.draw [⟨1, 1, 1⟩]) (rig (oks 8)) = .next t)
    ∧ (∃ t, (heldOrientation []).Inv ∧ (heldOrientation []).busy = true ∧ step (heldOrientation []) = .next t ∧ t.dc = .high)
    ∧ ∃ s t, exec (.writeData [0x00]) { rig [.wait, .ok] with dc := .high } = .next s ∧ s.busy = true ∧ s.op = .writeData [0x00]
      ∧ step s = .next t ∧ t.dc = .high :=
  ⟨⟨⟨_, rfl⟩, ⟨_, rfl⟩, _, rfl⟩, ⟨_, heldOrientation_inv [], rfl, rfl, by decide⟩, _, _, rfl, by decide, by decide, rfl, by decide⟩

theorem test_witness_LatchFrame :
    ((∃ t, exec (.setPixel 1 2 3) (rig [.err busError]) = .next t) ∧ (∃ t, exec (.setOrientation .normal) (rig [.wait]) = .next t)
    ∧ (∃ t, exec (.setAddressWindow 1 2 3 4) (rig (oks 6)) = .next t) ∧ (∃ t, exec (.draw [⟨1, 1, 1⟩]) (rig (oks 8)) = .next t)
    ∧ ∃ t, exec .swreset (rig [.ok]) = .next t)
    ∧ ∃ s t, exec (.draw [⟨1, 1, 9⟩, ⟨2, 2, 8⟩]) (rig (.wait :: oks 16)) = .next s ∧ s.busy = true ∧ step s = .next t
      ∧ t.latch = ⟨2, 2, 8, s.latch.ori, 2, 2, 2, 2⟩ :=
  ⟨⟨⟨_, rfl⟩, ⟨_, rfl⟩, ⟨_, rfl⟩, ⟨_, rfl⟩, _, rfl⟩, _, _, rfl, by decide, rfl, by decide⟩

theorem test_witness_TraceOnlyGrows :
    ∃ t, step { rig (oks 8) with requests := [.setPixel 1 2 3] } = .next t
      ∧ ({ rig (oks 8) with requests := [.setPixel 1 2 3] }.busy = false →
          ∀ r g, { rig (oks 8) with requests := [.setPixel 1 2 3] }.requests.head? ≠ some (.new r g)) := ⟨_, rfl, by simp⟩

theorem test_witness_RequestHeldWhileBusy :
    { rig [.ok] with busy := true, requests := [.init] }.busy = true ∧ (∀ r g, Instr.init ≠ .new r g) ∧ Instr.init.wellFormed = true :=
  ⟨by decide, by simp, by decide⟩

theorem test_witness_IdleBlockIsQuiet : (rig []).busy = false ∧ (rig []).requests = [] := by decide

theorem test_witness_StepRunsThePresentedRequest :
    { rig [] with requests := [.startData] }.busy = false ∧ { rig [] with requests := [.startData] }.requests = .startData :: []
    ∧ decodeTableWord 8 0x2C = some (.ramwr 0) := by decide

/-- A DRAW in progress before the last transmission of its pixel (1, 1), one more pixel to come. -/
def heldDraw (replies : List BusReply) : State :=
  { (rig replies).acceptDrawn ⟨1, 1, 9⟩ [⟨2, 2, 8⟩] with upc := 13 }

theorem heldDraw_inv (replies : List BusReply) : (heldDraw replies).Inv :=
  ⟨⟨(fun h => by cases h), fun _ => rfl, fun _ => ⟨(by decide : 13 ≤ 14), rfl, (fun h => by cases h), fun _ => rfl⟩⟩,
    (fun _ h => by cases h), reset_panel_inv _⟩

/-- One witness for each clause: a wait before the last transmission; an INIT accepted; a SET_ORIENTATION held at its parameter and an INIT in its
first delay; a SET_ORIENTATION that ends and one that fails; a DRAW held at its second pixel, and one in progress that ends, fails, and is held. -/
theorem test_witness_UnansweredTransmissionHolds :
    (let s := rig (oks 7 ++ .wait :: oks 1);
      s.busy = false ∧ 7 < 8 ∧ s.replies = List.replicate 7 .ok ++ .wait :: (List.replicate (8 - 7) .ok ++ []))
    ∧ ((rig []).busy = false ∧ Instr.init.operation = some .init ∧ Instr.init.acceptable (rig []).params = true)
    ∧ (let s := { heldOrientation [] with replies := [.ok, .wait] };
      s.busy = true ∧ s.mprog.drop s.upc = [.tx [0x36], .dcSet true] ++ .tx [0x00] :: []
      ∧ UnansweredAt s [.tx [0x36], .dcSet true] (.tx [0x00]) [] s.timer)
    ∧ (let s := { held 3 with timer := [.wait] };
      s.busy = true ∧ s.mprog.drop s.upc = [.dcSet false, .tx [0x01]] ++ .delay 5 :: s.mprog.drop 6
      ∧ UnansweredAt s [.dcSet false, .tx [0x01]] (.delay 5) [.wait] [])
    ∧ (let s := heldOrientation [];
      s.busy = true ∧ s.drawing = none ∧ s.replies = List.replicate (txCount (s.mprog.drop s.upc)) .ok ++ []
      ∧ s.timer = List.replicate (delayCount (s.mprog.drop s.upc)) .returned ++ s.timer)
    ∧ (let s := { heldOrientation [] with replies := [.ok, .err busError] };
      s.busy = true ∧ 1 < txCount (s.mprog.drop s.upc) ∧ s.replies = List.replicate 1 .ok ++ .err busError :: []
      ∧ s.timer = List.replicate (delayCount (beforeTx (s.mprog.drop s.upc) 1)) .returned ++ s.timer)
    ∧ (let s := rig (oks 15 ++ [.wait]);
      s.busy = false ∧ 7 < 8 ∧ s.replies = List.replicate (8 * ([⟨1, 1, 9⟩] : List Pixel).length + 7) .ok ++ .wait :: [])
    ∧ (let s := heldDraw (oks 9);
      s.Inv ∧ s.busy = true ∧ s.drawing = some [⟨2, 2, 8⟩]
      ∧ s.replies = List.replicate (txCount (s.mprog.drop s.upc) + 8 * ([⟨2, 2, 8⟩] : List Pixel).length) .ok ++ [])
    ∧ (let s := heldDraw (oks 8 ++ [.err busError]);
      s.Inv ∧ s.busy = true ∧ s.drawing = some ([] ++ ⟨2, 2, 8⟩ :: []) ∧ 7 < 8
      ∧ s.replies = List.replicate (txCount (s.mprog.drop s.upc) + 8 * ([] : List Pixel).length + 7) .ok ++ .err busError :: [])
    ∧ (let s := heldDraw (oks 1 ++ [.wait]);
      s.Inv ∧ s.busy = true ∧ s.drawing = some ([] ++ ⟨2, 2, 8⟩ :: []) ∧ 0 < 8
      ∧ s.replies = List.replicate (txCount (s.mprog.drop s.upc) + 8 * ([] : List Pixel).length + 0) .ok ++ .wait :: []) :=
  ⟨by decide, by decide, ⟨by decide, by decide, .inl ⟨⟨_, rfl⟩, rfl, rfl⟩⟩, ⟨by decide, by decide, .inr ⟨⟨_, rfl⟩, rfl, rfl⟩⟩, by decide,
    by decide, by decide, ⟨heldDraw_inv _, by decide⟩, ⟨heldDraw_inv _, by decide⟩, heldDraw_inv _, by decide⟩

theorem test_witness_ResumeIsRepeatedMicroStep : { rig [.ok] with busy := true, mprog := [.tx [0x01]] }.busy = true := by decide

/-- Idle: the two states differ in the levels, the latches and the trace. Busy: the same. -/
theorem test_witness_NothingButInputsIsRead :
    let t := { rig [.ok] with dc := .high, rst := .high, latch := ⟨1, 2, 3, .rotated, 4, 5, 6, 7⟩, trace := [.dc true] }
    (SameInputs (rig [.ok]) t ∧ SameProgress (rig [.ok]) t)
    ∧ let u := { heldOrientation [] with dc := .high, rst := .high, latch := ⟨1, 2, 3, .rotated, 4, 5, 6, 7⟩, trace := [.dc true] }
      SameInputs (heldOrientation []) u ∧ SameProgress (heldOrientation []) u ∧ (heldOrientation []).busy = true :=
  ⟨⟨⟨rfl, rfl, rfl, rfl, rfl, rfl⟩, rfl, by simp [rig, State.reset]⟩, ⟨rfl, rfl, rfl, rfl, rfl, rfl⟩, ⟨rfl, fun _ => ⟨rfl, rfl, rfl, rfl⟩⟩, rfl⟩

theorem test_witness_StopsAreOnlyTheseRefusals : (rigNewer []).busy = false := by decide

theorem test_witness_DecodeEncodeRoundTrip :
    distinctOn refParams refParams.table = true
    ∧ encode refParams (.madctl 0xFF) = some [(.low, 0x36), (.high, 0xFF)]
    ∧ ∀ b r, ([(.low, 0x11)] : List WirePair) ≠ (.high, b) :: r := ⟨by decide, by decide, by simp⟩

theorem test_witness_DecodedIsEncoded :
    decode refParams [(.low, 0x36), (.high, 0xFF), (.low, 0x11)] = .ok (.madctl 0xFF, [(.low, 0x11)]) := by rfl

theorem test_witness_WrittenWordsDecode : distinctOn refParams refParams.table = true := by decide

/-- A step from a state that meets the invariant, with an operation in progress and a well-formed configuration. -/
theorem test_witness_EveryStepKeepsInvariant :
    ∃ s t, State.Inv s ∧ s.busy = true ∧ step s = .next t ∧ s.params.wellFormed = true :=
  ⟨heldOrientation [], _, heldOrientation_inv [], rfl, rfl, by decide⟩

/-- The invariant with a known cell and a known window at the last location of the panel (rule R66 (b)). -/
theorem test_invariant_with_known_cell :
    ((Panel.initialised refParams ⟨true, false⟩).pixelWritten refParams ⟨127, 159, 0x1234, .normal, 127, 159, 127, 159⟩).Inv refParams := by
  have e : (Panel.initialised refParams ⟨true, false⟩).pixelWritten refParams ⟨127, 159, 0x1234, .normal, 127, 159, 127, 159⟩
      = { Panel.initialised refParams ⟨true, false⟩ with
          columns := some ⟨127, 127⟩, rows := some ⟨159, 159⟩, fm := [(127 * 65536 + 159, 0x1234)] } := by decide
  rw [e]
  refine ⟨by decide, by decide, by decide, ?_, ?_, ?_⟩
  · intro c hc
    obtain rfl : c = (127 * 65536 + 159, 0x1234) := by simpa using hc
    exact ⟨.oriented .normal, by decide, by decide, by decide⟩
  · intro c hc
    obtain rfl : ⟨127, 127⟩ = c := by simpa using hc
    exact ⟨by decide, .oriented .normal, by decide, by decide⟩
  · intro c hc
    obtain rfl : ⟨159, 159⟩ = c := by simpa using hc
    exact ⟨by decide, .oriented .normal, by decide, by decide⟩

/-- A step from a state that keeps the framing discipline, with an operation in progress. -/
theorem test_witness_EveryStepKeepsFraming : ∃ s t, FramingInv s ∧ s.busy = true ∧ step s = .next t :=
  ⟨{ heldOrientation [] with trace := [.dc false] }, _, ⟨rfl, .needOpcode, rfl, by simp [heldOrientation], fun _ => ⟨.data, by decide, rfl⟩⟩,
    rfl, rfl⟩

/-- R155 (a): a byte that is no opcode of the table, and a high drive with no opcode before it, are breaches. -/
theorem test_framing_breaches :
    framed refParams [.dc false, .tx [0x00] .ok] = false ∧ framed refParams [.dc true, .tx [0x2C] .ok] = false
    ∧ framed refParams [.dc false, .tx [0x2C] .ok, .dc true, .tx [0xF8, 0x1F] .ok] = true
    ∧ framed refParams [.dc false, .tx [0x2C] (.err busError), .dc true, .tx [0xF8, 0x1F] .ok] = false := by decide

end Sys2Proof.Tests
end

section
/-! PROOFS. What a block is set up with, its parameters, its control register and the host's remaining requests (rules R6,
R23, R286), is kept by all that an operation in progress can do; NEW alone writes the control register (rule R170). -/

namespace Sys2Proof.Machine

open Sys2Proof

/-- The parameters, the control register and the host's remaining requests are the same in `t` as in `s`. -/
structure SameSetup (s t : State) : Prop where
  params : t.params = s.params
  cfg : t.cfg = s.cfg
  requests : t.requests = s.requests

theorem SameSetup.trans {s t u : State} (h : SameSetup s t) (k : SameSetup t u) : SameSetup s u :=
  ⟨k.params.trans h.params, k.cfg.trans h.cfg, k.requests.trans h.requests⟩

theorem Kept.sameSetup {s t : State} (h : Kept s t) : SameSetup s t := ⟨h.params, h.cfg, h.requests⟩

theorem State.complete_sameSetup (s : State) : SameSetup s s.complete := by
  obtain ⟨hparams, hcfg, -, -, -, -, -, -, hrequests, -⟩ := s.complete_keeps
  exact ⟨hparams, hcfg, hrequests⟩

theorem State.abort_sameSetup (s : State) (e : TransportError) : SameSetup s (s.abort e) := by
  obtain ⟨hparams, hcfg, -, -, -, -, -, -, hrequests, -⟩ := s.abort_keeps e
  exact ⟨hparams, hcfg, hrequests⟩

theorem State.returnToHost_sameSetup (s : State) (r : Result) : SameSetup s (s.returnToHost r) := ⟨rfl, rfl, rfl⟩

theorem State.panelAfterOk_sameSetup (s : State) : SameSetup s s.panelAfterOk := ⟨rfl, rfl, rfl⟩

/-- Wherever the micro-program of a DRAW's pixel stops, the setup is the one the pixel was accepted with. -/
theorem SameSetup.of_drawn {s : State} {q : Pixel} {ps : List Pixel} {ms : List Micro} {r : Run}
    (h : runMicros ms (s.acceptDrawn q ps) = r) : SameSetup s r.state := by
  subst h
  have accepted : SameSetup s (s.acceptDrawn q ps) := ⟨rfl, rfl, rfl⟩
  exact accepted.trans (runMicros_kept ms _).sameSetup

theorem drawPixels_sameSetup (ps : List Pixel) (s : State) : SameSetup s (drawPixels ps s) := by
  apply drawPixels_induct (R := SameSetup)
  case hend => exact fun s => s.returnToHost_sameSetup .ok
  case hpixel =>
    intro s q ps t h u rest
    exact (SameSetup.of_drawn h).trans (t.panelAfterOk_sameSetup.trans rest)
  case hfail =>
    intro s q ps e t h
    exact (SameSetup.of_drawn h).trans (t.abort_sameSetup e)
  case hwait =>
    intro s q ps t h
    exact SameSetup.of_drawn h

/-- What follows a micro-program: the end of the operation, the pixels still to come, the exception, or nothing. -/
theorem Run.settle_sameSetup (r : Run) : SameSetup r.state r.settle := by
  cases r with
  | finished s =>
    cases hd : s.drawing with
    | none => simpa [Run.settle, Run.state, hd] using s.complete_sameSetup
    | some ps => simpa [Run.settle, Run.state, hd] using s.panelAfterOk_sameSetup.trans (drawPixels_sameSetup ps _)
  | failed e s => exact s.abort_sameSetup e
  | waiting s => exact Kept.rfl'.sameSetup

theorem State.resume_sameSetup (s : State) : SameSetup s s.resume :=
  (runMicros_kept _ s).sameSetup.trans (Run.settle_sameSetup _)

/-- NEW writes the control register from its arguments; parameters and requests stay as they are (rule R170, log entry 16). -/
theorem exec_new_setup {s t : State} {r g : Bool} (h : exec (.new r g) s = .next t) :
    t.params = s.params ∧ t.cfg = ⟨r, g⟩ ∧ t.requests = s.requests := by
  cases h
  exact ⟨rfl, rfl, rfl⟩

theorem exec_sameSetup {i : Instr} {s t : State} (hi : ∀ r g, i ≠ .new r g) (h : exec i s = .next t) : SameSetup s t := by
  obtain ⟨r, g, rfl⟩ | ⟨ps, rfl, -, rfl⟩ | ⟨op, -, -, -, rfl⟩ := exec_cases h
  · exact absurd rfl (hi r g)
  · exact drawPixels_sameSetup ps s
  · have started := (s.latchFor i).start_wentOn op
    exact ⟨started.params, started.cfg, started.requests⟩

/-- NEW included: no instruction touches the parameters or the requests still to come. -/
theorem exec_keeps_params_requests {i : Instr} {s t : State} (h : exec i s = .next t) :
    t.params = s.params ∧ t.requests = s.requests := by
  by_cases hi : ∃ r g, i = .new r g
  · obtain ⟨r, g, rfl⟩ := hi
    obtain ⟨hparams, -, hrequests⟩ := exec_new_setup h
    exact ⟨hparams, hrequests⟩
  · have kept : SameSetup s t := exec_sameSetup (by simpa using hi) h
    exact ⟨kept.params, kept.requests⟩

theorem exec_configuration_fixed {i : Instr} {s t : State} (h : exec i s = .next t) :
    t.params = s.params ∧ t.requests = s.requests ∧ ((∀ r g, i ≠ .new r g) → t.cfg = s.cfg)
      ∧ (∀ r g, i = .new r g → t.cfg = ⟨r, g⟩) := by
  obtain ⟨hparams, hrequests⟩ := exec_keeps_params_requests h
  refine ⟨hparams, hrequests, fun hi => (exec_sameSetup hi h).cfg, ?_⟩
  rintro r g rfl
  obtain ⟨-, hcfg, -⟩ := exec_new_setup h
  exact hcfg

theorem step_configuration_fixed {s t : State} (h : step s = .next t) :
    t.params = s.params ∧ t.requests = (if s.busy then s.requests else s.requests.tail)
      ∧ (s.busy = true → t.cfg = s.cfg)
      ∧ (s.busy = false → (∀ r g, s.requests.head? ≠ some (.new r g)) → t.cfg = s.cfg) := by
  obtain ⟨hb, rfl⟩ | ⟨hb, hr, rfl⟩ | ⟨hb, i, rest, hr, hx⟩ := step_cases h
  · have kept := s.resume_sameSetup
    simp [hb, kept.params, kept.cfg, kept.requests]
  · simp [hb, hr]
  · obtain ⟨hparams, hrequests, hcfg, -⟩ := exec_configuration_fixed hx
    exact ⟨hparams, by simpa [hb, hr] using hrequests, by simp [hb], fun _ hn => hcfg (by simpa [hr] using hn)⟩

/-- Settles O42, from what each instruction and each step keeps of the setup. -/
theorem configurationIsFixed : Obligations.ConfigurationIsFixed :=
  ⟨fun _ _ _ => exec_configuration_fixed, fun _ _ => step_configuration_fixed⟩

end Sys2Proof.Machine
end

section
/-! PROOFS. The bits of the memory-access-control parameter (rule R88). -/

namespace Sys2Proof.Machine

open Sys2Proof

/-- `BGR_BIT` is bit 3 alone (rule R6). -/
theorem bgrBit_eq_twoPow : bgrBit = BitVec.twoPow 8 3 := rfl

@[simp] theorem getLsbD_bgrBit (k : Nat) : bgrBit.getLsbD k = (k == 3) := by
  simp [bgrBit_eq_twoPow, BitVec.getLsbD_twoPow, eq_comm, beq_eq_decide]

@[simp] theorem getLsbD_colourOrderBits (c : Cfg) (k : Nat) : (colourOrderBits c).getLsbD k = (k == 3 && !c.rgb) := by
  cases hc : c.rgb <;> simp [colourOrderBits, hc]

/-- The bits of `base`, bit 3 also set for BGR. -/
theorem getLsbD_madctlParam (c : Cfg) (base : Byte) (k : Nat) :
    (madctlParam c base).getLsbD k = (base.getLsbD k || (k == 3 && !c.rgb)) := by
  rw [madctlParam, BitVec.getLsbD_or, getLsbD_colourOrderBits]

/-- Settles O27: both parameters are `madctlParam` over their base. -/
theorem colourOrderBit : Obligations.ColourOrderBit := fun p c o k =>
  ⟨getLsbD_madctlParam c (oriv p o) k, getLsbD_madctlParam c p.madctlInitBase k⟩

end Sys2Proof.Machine
end

section
/-! PROOFS. INIT (rules R179, R185): how its micro-program drives the reset line and how often it waits for the delay service, and
its result. -/

namespace Sys2Proof.Machine

open Sys2Proof

/-- Micro-events that do not drive the reset line leave its level. -/
theorem rstAfter_of_no_drive {ms : List Micro} (h : ∀ b, Micro.rstSet b ∉ ms) (r : Level) : rstAfter ms r = r := by
  induction ms with
  | nil => rfl
  | cons m ms ih =>
    have hms : rstAfter ms r = r := ih fun b hb => h b (List.mem_cons_of_mem m hb)
    cases m with
    | rstSet b => exact absurd List.mem_cons_self (h b)
    | dcSet b => exact hms
    | tx bytes => exact hms
    | delay n => exact hms

theorem rstSet_notMem_writeCommand (b : Bool) (p : Params) (m : Mnemonic) (ps : List Byte) :
    Micro.rstSet b ∉ writeCommand p m ps := by
  cases ps <;> simp [writeCommand]

theorem rstSet_notMem_configure (b : Bool) (p : Params) (l : List CfgEntry) : Micro.rstSet b ∉ configure p l := by
  simp [configure, rstSet_notMem_writeCommand]

/-- The micro-program of INIT after its reset pulse (rules R173 to R184). -/
def initAfterReset (p : Params) (c : Cfg) (l : List CfgEntry) : List Micro :=
  softwareReset p ++ sleepOut p ++ configure p l ++ writeCommand p (polarityCommand c) [] ++ writeCommand p .madctl [initMadctl p c]
    ++ writeCommand p .colmod [p.colmodParam] ++ displayOn p

theorem initProgram_eq_hardReset_append (p : Params) (c : Cfg) (l : List CfgEntry) :
    initProgram p c l = hardReset ++ initAfterReset p c l := by
  simp only [initProgram, initAfterReset, List.append_assoc]

/-- INIT drives the reset line in its pulse only (rule R172). -/
theorem rstSet_notMem_initAfterReset (b : Bool) (p : Params) (c : Cfg) (l : List CfgEntry) :
    Micro.rstSet b ∉ initAfterReset p c l := by
  simp [initAfterReset, softwareReset, sleepOut, displayOn, delayMs, rstSet_notMem_writeCommand, rstSet_notMem_configure]

/-- The pulse ends with the reset line high (rule R156). -/
theorem rstAfter_hardReset_append {tail : List Micro} (h : ∀ b, Micro.rstSet b ∉ tail) (r : Level) :
    rstAfter (hardReset ++ tail) r = .high := by
  rw [rstAfter_append, rstAfter_of_no_drive h]
  rfl

theorem rstAfter_initProgram (p : Params) (c : Cfg) (l : List CfgEntry) (r : Level) : rstAfter (initProgram p c l) r = .high := by
  rw [initProgram_eq_hardReset_append]
  exact rstAfter_hardReset_append (rstSet_notMem_initAfterReset · p c l) r

/-- The pulse comes before every transmission of INIT (rule R188). -/
theorem rstAfter_beforeTx_initProgram {p : Params} {c : Cfg} {l : List CfgEntry} {n : Nat} (hn : n < txCount (initProgram p c l))
    (r : Level) : rstAfter (beforeTx (initProgram p c l) n) r = .high := by
  rw [initProgram_eq_hardReset_append] at hn ⊢
  obtain ⟨_, hsplit⟩ := beforeTx_split (initAfterReset p c l) n hn
  have before_prefix : beforeTx (initAfterReset p c l) n <+: initAfterReset p c l := ⟨_, hsplit.symm⟩
  exact rstAfter_hardReset_append (fun b hb => rstSet_notMem_initAfterReset b p c l (before_prefix.subset hb)) r

@[simp] theorem delayCount_writeCommand (p : Params) (m : Mnemonic) (ps : List Byte) : delayCount (writeCommand p m ps) = 0 := by
  cases ps <;> rfl

@[simp] theorem delayCount_configure (p : Params) (l : List CfgEntry) : delayCount (configure p l) = 0 := by
  induction l with
  | nil => rfl
  | cons e l ih => simp [configure_cons, delayCount_append, ih]

/-- The three settle delays of INIT (rules R173, R174, R184, R186). -/
theorem delayCount_initProgram (p : Params) (c : Cfg) (l : List CfgEntry) : delayCount (initProgram p c l) = 3 := by
  simp [initProgram, softwareReset, sleepOut, displayOn, hardReset, delayMs, delayCount_append, delayCount]

/-- What INIT expands to where `CFG` is supplied (rule R179). -/
theorem State.expand_init {s : State} {l : List CfgEntry} (hl : s.params.configuration = some l) :
    s.expand .init = initProgram s.params s.cfg l := by
  simp [State.expand, expansion, hl]

/-- INIT is accepted where `CFG` is supplied and admissible (rules R177, R187). -/
theorem exec_init {s : State} {l : List CfgEntry} (hb : s.busy = false) (hl : s.params.configuration = some l)
    (ha : admissible s.params l = true) : exec .init s = .next (s.start .init) := by
  have accepted : execInit s = .next (s.start .init) := by simp [execInit, whenIdle_idle _ hb, hl, ha]
  exact accepted

/-- Settles O22, from what any operation leaves when a transmission fails (`State.start_err`) or none does (`State.start_ok`). -/
theorem initResult : Obligations.InitResult := by
  intro s l rest later hb hl ha
  have hprogram := State.expand_init hl
  refine ⟨fun n e hn hreplies htimer => ?_, fun hreplies htimer => ?_⟩
  · rw [← hprogram] at hn htimer
    have failed := s.start_err .init n e rest later hn hreplies htimer
    rw [hprogram] at failed hn
    exact ⟨_, exec_init hb hl ha, failed.busy, failed.trace, failed.replies, failed.timer, failed.cfg,
      failed.rst.trans (rstAfter_beforeTx_initProgram hn _), failed.dc, congrArg Panel.cfg failed.panel, congrArg Panel.fm failed.panel⟩
  · rw [← delayCount_initProgram s.params s.cfg l, ← hprogram] at htimer
    rw [← hprogram] at hreplies
    obtain ⟨⟨hidle, htrace, hrest, hlater, -⟩, hdc, hrst, -⟩ := s.start_ok .init rest later hreplies htimer
    rw [hprogram] at htrace hdc hrst
    exact ⟨_, exec_init hb hl ha, hidle, htrace.trans (List.append_assoc ..).symm, hrest, hlater,
      hrst.trans (rstAfter_initProgram ..), hdc⟩

end Sys2Proof.Machine
end

section
/-! PROOFS. SET_ADDRESS_WINDOW and SET_PIXEL on the wire (rules R212, R215, R216): the events of their micro-programs, and what the
panel's side of the bus sees of them. -/

namespace Sys2Proof.Machine

open Sys2Proof

/-- The `RET` that ends a host operation puts nothing on the wire (rule R9). -/
theorem wireFrom_append_ret (d : Level) (evs : List Event) (r : Result) : wireFrom d (evs ++ [.ret r]) = wireFrom d evs := by
  induction evs generalizing d with
  | nil => rfl
  | cons e evs ih => cases e <;> simp [wireFrom, ih]

/-- The window commands' opcodes are the same in every table (rules R89, R120, R121). -/
theorem okEvents_addressWindow (p : Params) (x0 y0 x1 y1 : Word) :
    okEvents (addressWindow p x0 y0 x1 y1) = windowEvents x0 y0 x1 y1 := rfl

theorem okEvents_pixelProgram (p : Params) (x y c : Word) : okEvents (pixelProgram p x y c) = pixelEvents x y c := by
  rw [pixelProgram, okEvents_append, okEvents_addressWindow]
  rfl

/-- The eight failure points of SET_PIXEL (rules R217, R241). -/
theorem txCount_pixelProgram (p : Params) (x y c : Word) : txCount (pixelProgram p x y c) = 8 := rfl

/-- SET_PIXEL waits for the bus only. -/
theorem delayCount_pixelProgram (p : Params) (x y c : Word) : delayCount (pixelProgram p x y c) = 0 := rfl

/-- The window commands drive the selector before they send, so the level they find does not matter; they leave it high. -/
theorem wireFrom_windowEvents_append (d : Level) (x0 y0 x1 y1 : Word) (evs : List Event) :
    wireFrom d (windowEvents x0 y0 x1 y1 ++ evs)
      = [(.low, 0x2A), (.high, hi x0), (.high, lo x0), (.high, hi x1), (.high, lo x1),
         (.low, 0x2B), (.high, hi y0), (.high, lo y0), (.high, hi y1), (.high, lo y1)] ++ wireFrom .high evs := rfl

/-- The thirteen pairs of rule R216. -/
theorem wireFrom_pixelEvents (d : Level) (x y c : Word) :
    wireFrom d (pixelEvents x y c)
      = [(.low, 0x2A), (.high, hi x), (.high, lo x), (.high, hi x), (.high, lo x),
         (.low, 0x2B), (.high, hi y), (.high, lo y), (.high, hi y), (.high, lo y),
         (.low, 0x2C), (.high, hi c), (.high, lo c)] := by
  rw [pixelEvents, wireFrom_windowEvents_append]
  rfl

theorem filter_isDc_windowEvents (x0 y0 x1 y1 : Word) :
    (windowEvents x0 y0 x1 y1).filter Event.isDc = [.dc false, .dc true, .dc false, .dc true] := rfl

theorem filter_isDc_pixelEvents (x y c : Word) :
    (pixelEvents x y c).filter Event.isDc = [.dc false, .dc true, .dc false, .dc true, .dc false, .dc true] := by
  rw [pixelEvents, List.filter_append, filter_isDc_windowEvents]
  rfl

/-- SET_PIXEL latches its operands and the one-by-one window, so it expands to the program over them (rules R28, R30, R215). -/
theorem State.expand_setPixel (s : State) (x y c : Word) :
    (s.latchFor (.setPixel x y c)).expand .setPixel = pixelProgram s.params x y c := rfl

/-- The trace and the bytes at the panel after a SET_PIXEL whose eight transmissions succeed. -/
theorem exec_setPixel_ok {s t : State} {x y c : Word} {rest : List BusReply} (hreplies : s.replies = List.replicate 8 .ok ++ rest)
    (h : exec (.setPixel x y c) s = .next t) :
    t.trace = s.trace ++ (pixelEvents x y c ++ [.ret .ok]) ∧ t.received = s.received ++ wireFrom s.dc (pixelEvents x y c) := by
  obtain ⟨-, -, rfl⟩ := (exec_next (op := .setPixel) rfl).mp h
  have started := (s.latchFor (.setPixel x y c)).start_ok .setPixel rest s.timer
  rw [State.expand_setPixel, txCount_pixelProgram, delayCount_pixelProgram, okEvents_pixelProgram] at started
  obtain ⟨⟨-, htrace, -⟩, -, -, -, -, -, hreceived⟩ := started hreplies rfl
  exact ⟨htrace, hreceived⟩

/-- Settles O30: the events are those of rule R215 and `RET(Ok)`, which the wire view and the selector drives leave out. -/
theorem setPixelInterleaving : Obligations.SetPixelInterleaving := by
  intro s t x y c rest _ hreplies h
  obtain ⟨htrace, hreceived⟩ := exec_setPixel_ok hreplies h
  refine ⟨_, htrace, fun d => ?_, ?_, ?_⟩
  · rw [wireFrom_append_ret, wireFrom_pixelEvents]
  · rw [List.filter_append, filter_isDc_pixelEvents]
    rfl
  · rw [wireFrom_append_ret, hreceived]

end Sys2Proof.Machine
end

section
/-! PROOFS. The wire encodings (rules R62, R81 to R92): the decoder reads back what the encoder writes, and nothing else. -/

namespace Sys2Proof

theorem hi_word (a b : Byte) : hi (word a b) = a := by
  apply BitVec.eq_of_getLsbD_eq
  intro i hlt
  simp [word, hi, hlt, show 8 + i < 16 by omega, show i < 16 by omega]

theorem lo_word (a b : Byte) : lo (word a b) = b := by
  apply BitVec.eq_of_getLsbD_eq
  intro i hlt
  simp only [word, lo, BitVec.getLsbD_or, BitVec.getLsbD_shiftLeft, BitVec.getLsbD_setWidth, BitVec.getLsbD_and]
  interval_cases i <;> simp

/-- The two bytes of a word are read back from it. -/
theorem be16_word (a b : Byte) : be16 (word a b) = [a, b] := by rw [be16, hi_word, lo_word]

/-- The formats are read as they are written: a command with the parameters of its format is the instruction (rules R82 to R86). -/
theorem wireCommand_of_wireForm {i : Instr} {m : Mnemonic} {ps : List Byte} (h : i.wireForm = some (m, ps)) : wireCommand m ps = .ok i := by
  cases i <;> simp only [Instr.wireForm, Option.some.injEq, Prod.mk.injEq, reduceCtorEq] at h <;> obtain ⟨rfl, rfl⟩ := h <;>
    simp [wireCommand, be16, word_hi_lo]

/-- A command that is read as an instruction carried the parameters of the instruction's format. -/
theorem wireForm_of_wireCommand {i : Instr} {m : Mnemonic} {ps : List Byte} (h : wireCommand m ps = .ok i) : i.wireForm = some (m, ps) := by
  unfold wireCommand at h
  split at h <;> cases h <;> simp [Instr.wireForm, be16_word]

/-- An encoding is the opcode of the table and the parameters of the format (rule R81). -/
theorem encode_eq_some {p : Params} {i : Instr} {ws : List WirePair} :
    encode p i = some ws ↔ ∃ m ps, i.wireForm = some (m, ps) ∧ inTable p m = true
      ∧ ws = (.low, opByte p m) :: ps.map (fun b => (.high, b)) := by
  unfold encode
  cases hw : i.wireForm with
  | none => simp
  | some mps =>
    obtain ⟨m, ps⟩ := mps
    simp only [Option.some.injEq, Prod.mk.injEq]
    constructor
    · intro h
      split at h
      · exact ⟨m, ps, ⟨rfl, rfl⟩, ‹_›, (Option.some.inj h).symm⟩
      · cases h
    · rintro ⟨_, _, ⟨rfl, rfl⟩, ht, rfl⟩
      simp [ht]

/-- A byte is read as an opcode of the table that has it. -/
theorem mnemonicOf_eq_some {p : Params} {b : Byte} {m : Mnemonic} (h : mnemonicOf p b = some m) :
    inTable p m = true ∧ opByte p m = b :=
  ⟨(mem_table_iff p m).mp (List.mem_of_find?_eq_some h), by simpa using List.find?_some h⟩

/-- In a table of distinct opcodes a byte names one opcode (rule R141). -/
theorem mnemonicOf_opByte {p : Params} {m : Mnemonic} (hd : distinctOn p p.table = true) (hm : inTable p m = true) :
    mnemonicOf p (opByte p m) = some m := by
  have hmem := (mem_table_iff p m).mpr hm
  cases hf : mnemonicOf p (opByte p m) with
  | none => simpa using List.find?_eq_none.mp hf m hmem
  | some n =>
    obtain ⟨hn, hbyte⟩ := mnemonicOf_eq_some hf
    simp only [distinctOn, List.all_eq_true, Bool.or_eq_true, beq_iff_eq, bne_iff_ne] at hd
    exact congrArg some ((hd n ((mem_table_iff p n).mpr hn) m hmem).resolve_right (not_not.mpr hbyte))

/-- A stream whose next pair is no parameter. -/
theorem parametersOf_eq_nil {ws : List WirePair} (h : ∀ b r, ws ≠ (.high, b) :: r) : parametersOf ws = [] ∧ afterParameters ws = ws := by
  cases ws with
  | nil => exact ⟨rfl, rfl⟩
  | cons w ws =>
    obtain ⟨d, b⟩ := w
    cases d with
    | high => exact absurd rfl (h b ws)
    | low => exact ⟨rfl, rfl⟩
    | undriven => exact ⟨rfl, rfl⟩

/-- A stream is its parameters and what follows them. -/
theorem parametersOf_append_afterParameters (ws : List WirePair) :
    (parametersOf ws).map (fun b => (Level.high, b)) ++ afterParameters ws = ws := by
  induction ws with
  | nil => rfl
  | cons w ws ih =>
    obtain ⟨d, b⟩ := w
    cases d with
    | high => simpa [parametersOf, afterParameters] using ih
    | low => rfl
    | undriven => rfl

/-- What the decoder reads: an opcode of the table with the selector low, the parameters of the instruction's format, and the rest. -/
theorem decode_eq_ok {p : Params} {ws rest : List WirePair} {i : Instr} (h : decode p ws = .ok (i, rest)) :
    ∃ b tail m, ws = (.low, b) :: tail ∧ mnemonicOf p b = some m ∧ wireCommand m (parametersOf tail) = .ok i
      ∧ rest = afterParameters tail := by
  unfold decode at h
  split at h
  case h_1 => cases h
  case h_2 => cases h
  case h_3 => cases h
  case h_4 b tail =>
    split at h
    case h_1 => cases h
    case h_2 m hm =>
      split at h
      case h_1 => cases h
      case h_2 j hj =>
        obtain ⟨rfl, rfl⟩ : j = i ∧ afterParameters tail = rest := by simpa using h
        exact ⟨b, tail, m, rfl, hm, hj, rfl⟩

/-- Settles O54: the byte names the opcode, the parameters end where the encoding does, and the format is read as it is written. -/
theorem decodeEncodeRoundTrip : Obligations.DecodeEncodeRoundTrip := by
  intro p i ws rest hd he hrest
  obtain ⟨m, ps, hform, hm, rfl⟩ := encode_eq_some.mp he
  obtain ⟨hnone, hall⟩ := parametersOf_eq_nil hrest
  simp only [List.cons_append, decode, mnemonicOf_opByte hd hm, parametersOf_append ps rest hnone, wireCommand_of_wireForm hform,
    afterParameters_append, hall]

/-- Settles O55: the stream is the opcode, its parameters and the rest, which is the encoding and the rest. -/
theorem decodedIsEncoded : Obligations.DecodedIsEncoded := by
  intro p ws rest i h
  obtain ⟨b, tail, m, rfl, hm, hc, rfl⟩ := decode_eq_ok h
  obtain ⟨hin, hbyte⟩ := mnemonicOf_eq_some hm
  refine ⟨_, encode_eq_some.mpr ⟨m, _, wireForm_of_wireCommand hc, hin, rfl⟩, ?_⟩
  rw [List.cons_append, parametersOf_append_afterParameters, hbyte]

/-- The encoding of a wire command whose opcode the table holds with the byte `b` (rule R81). -/
theorem encode_of_opv {p : Params} {i : Instr} {m : Mnemonic} {ps : List Byte} {b : Byte} (h : i.wireForm = some (m, ps))
    (hb : opv p m = some b) : encode p i = some ((.low, b) :: ps.map fun b => (.high, b)) := by
  obtain ⟨rfl, hin⟩ := opByte_of_opv hb
  exact encode_eq_some.mpr ⟨m, ps, h, hin, rfl⟩

/-- The encoding of a wire command, by the table's entry for its opcode. -/
theorem encode_eq_map {p : Params} {i : Instr} {m : Mnemonic} {ps : List Byte} (h : i.wireForm = some (m, ps)) :
    encode p i = (opv p m).map fun op => (.low, op) :: ps.map fun b => (.high, b) := by
  cases ho : opv p m <;> simp [encode, h, inTable, opByte, ho]

/-- What has no binary form has no encoding (rule R93). -/
theorem encode_eq_none {p : Params} {i : Instr} (h : i.wireForm = none) : encode p i = none := by simp [encode, h]

/-- Settles O56, one instruction after another, by its format and its opcode's entry in the table. -/
theorem onlyWireCommandsAreEncoded : Obligations.OnlyWireCommandsAreEncoded := by
  intro p
  refine ⟨fun _ _ => encode_eq_none rfl, encode_eq_none rfl, fun _ => encode_eq_none rfl, fun _ _ _ => encode_eq_none rfl,
    fun _ => encode_eq_none rfl, fun _ _ _ _ => encode_eq_none rfl, fun _ _ => encode_eq_none rfl, encode_eq_none rfl,
    fun _ => encode_eq_none rfl, fun _ => encode_eq_none rfl, encode_eq_none rfl, fun _ => encode_eq_none rfl,
    encode_of_opv (ps := []) rfl rfl, encode_of_opv (ps := []) rfl rfl, encode_of_opv (ps := []) rfl rfl,
    encode_of_opv (ps := []) rfl rfl, encode_of_opv (ps := []) rfl rfl,
    fun a b => encode_of_opv (ps := be16 a ++ be16 b) rfl rfl, fun a b => encode_of_opv (ps := be16 a ++ be16 b) rfl rfl,
    fun c => encode_of_opv (ps := be16 c) rfl rfl, fun q => encode_of_opv (ps := [q]) rfl rfl, fun q => encode_of_opv (ps := [q]) rfl rfl,
    fun _ => encode_of_opv rfl rfl, fun _ => encode_of_opv rfl rfl, fun _ => encode_of_opv rfl rfl, fun _ => encode_of_opv rfl rfl,
    fun _ => encode_of_opv rfl rfl, fun _ => encode_eq_map rfl, fun _ => encode_eq_map rfl, fun _ => encode_eq_map rfl,
    fun _ => encode_eq_map rfl, fun _ => encode_eq_map rfl, fun _ => encode_eq_map rfl, fun _ => encode_eq_map rfl,
    fun _ => encode_eq_map rfl, fun _ => encode_eq_map rfl, fun _ => encode_eq_map rfl, fun _ => encode_eq_map rfl,
    fun _ => encode_eq_map rfl⟩

/-- Settles O57: each word is the encoding of its instruction, so it is read back. -/
theorem writtenWordsDecode : Obligations.WrittenWordsDecode := by
  intro p hd
  have reads {i : Instr} {ws rest : List WirePair} (he : encode p i = some ws) (hrest : ∀ b r, rest ≠ (.high, b) :: r) :
      decode p (ws ++ rest) = .ok (i, rest) := decodeEncodeRoundTrip p i ws rest hd he hrest
  refine ⟨reads (i := .swreset) (ws := [(.low, 0x01)]) rfl (by simp), ?_, ?_, ?_, ?_⟩
  · exact reads (i := .caset 0x0012 0x0012) (ws := [(.low, 0x2A), (.high, 0x00), (.high, 0x12), (.high, 0x00), (.high, 0x12)]) rfl (by simp)
  · exact reads (i := .raset 0x0134 0x0134) (ws := [(.low, 0x2B), (.high, 0x01), (.high, 0x34), (.high, 0x01), (.high, 0x34)]) rfl (by simp)
  · exact reads (i := .ramwr 0xF81F) (ws := [(.low, 0x2C), (.high, 0xF8), (.high, 0x1F)]) rfl (by simp)
  · exact reads (i := .madctl 0x68) (ws := [(.low, 0x36), (.high, 0x68)]) (rest := [(.low, 0x11)]) rfl (by simp)

/-- Settles O10: the fixed bytes by the table's definition, the members by `inTable_common` and `inTable_newer`. -/
theorem opcodeTables : Obligations.OpcodeTables := fun p =>
  ⟨rfl, rfl, fun _ => inTable_common, fun hg _ => (inTable_newer hg).mp, fun hg => by simp [opv, Params.older, hg]⟩

end Sys2Proof
end

section
/-! PROOFS. What an idle block answers to an instruction, as one equation: it starts the instruction's operation, or refuses it by
name (rules R91, R153, R177, R187, R264). The gates of a step (rules R251, R252) with it. -/

namespace Sys2Proof

open Sys2Proof.Machine

/-- The reason for which an instruction that is not acceptable is refused. -/
def Instr.refusal (p : Params) (i : Instr) : Refusal :=
  match i, i.wireForm with
  | .writeData _, _ => .emptyTransmission
  | .writeCommand m _, _ => .opcodeNotInTable m
  | _, some (m, _) => .opcodeNotInTable m
  | _, none => if p.configuration.isNone then .noConfiguration else .configurationNotAdmissible

/-- NEW and DRAW accept no operation (rules R170, R230). -/
theorem Instr.operation_eq_none {i : Instr} (h : i.operation = none) : (∃ r g, i = .new r g) ∨ ∃ ps, i = .draw ps := by
  cases i <;> simp [Instr.operation] at h ⊢

/-- A wire command accepts an operation; only the table is asked whether it may (rule R91). -/
theorem Instr.gate_of_wireForm {i : Instr} {m : Mnemonic} {ps : List Byte} (h : i.wireForm = some (m, ps)) (p : Params) :
    (∃ op, i.operation = some op) ∧ i.acceptable p = inTable p m ∧ i.refusal p = .opcodeNotInTable m := by
  cases i <;> cases h <;> exact ⟨⟨_, rfl⟩, by simp [Instr.acceptable, Instr.wellFormed, Instr.wireForm], rfl⟩

/-- What has no binary form is acceptable but for the three cases of rules R91, R153 and R177. -/
theorem Instr.acceptable_of_wireForm_eq_none {i : Instr} (h : i.wireForm = none) (p : Params) :
    i.acceptable p = true ∨ i = .writeData [] ∨ (∃ m ps, i = .writeCommand m ps ∧ inTable p m = false)
      ∨ (i = .init ∧ p.configuration.any (admissible p) = false) := by
  cases i <;> cases h <;> simp [Instr.acceptable, Instr.wellFormed, Instr.wireForm]
  case writeData bytes => exact em' _

end Sys2Proof

namespace Sys2Proof.Machine

open Sys2Proof

/-- A wire command or WRITE_COMMAND on an idle block: only the table is asked (rule R91). -/
theorem issue_idle {s : State} (hb : s.busy = false) (m : Mnemonic) (op : Operation) :
    issue s m op = if inTable s.params m then .next (s.start op) else .refused (.opcodeNotInTable m) := whenIdle_idle _ hb

theorem primitive_idle {s : State} (hb : s.busy = false) (op : Operation) : primitive s op = .next (s.start op) := whenIdle_idle _ hb

theorem exec_draw_idle {s : State} (ps : List Pixel) (hb : s.busy = false) : exec (.draw ps) s = .next (drawPixels ps s) :=
  whenIdle_idle _ hb

/-- Every other instruction starts its operation where it is acceptable, and is refused where not. -/
theorem exec_idle {i : Instr} {op : Operation} {s : State} (hop : i.operation = some op) (hb : s.busy = false) :
    exec i s = if i.acceptable s.params then .next ((s.latchFor i).start op) else .refused (i.refusal s.params) := by
  cases i <;> cases hop
  case init =>
    refine (whenIdle_idle _ hb).trans ?_
    cases hc : s.params.configuration with
    | none => simp [Instr.acceptable, hc, Instr.refusal, Instr.wireForm]
    | some l => cases ha : admissible s.params l <;>
        simp [Instr.acceptable, Instr.wellFormed, Instr.wireForm, hc, ha, Instr.refusal, State.latchFor, Instr.latched]
  case writeData bytes =>
    cases bytes with
    | nil => rfl
    | cons b bs => exact primitive_idle hb _
  case setOrientation o => exact primitive_idle (s := s.latchOrientation o) hb _
  case setPixel x y c => exact primitive_idle (s := (s.latchPixel x y c).latchWindow x y x y) hb _
  case setAddressWindow x0 y0 x1 y1 => exact primitive_idle (s := s.latchWindow x0 y0 x1 y1) hb _
  case startData => exact primitive_idle hb _
  case writeWord v => exact primitive_idle hb _
  case hardReset => exact primitive_idle hb _
  case delayMs n => exact primitive_idle hb _
  all_goals exact (issue_idle hb _ _).trans (by
    simp [Instr.acceptable, Instr.wellFormed, Instr.wireForm, Instr.refusal, State.latchFor, Instr.latched])

theorem exec_accepted {i : Instr} {op : Operation} {s : State} (hop : i.operation = some op) (hb : s.busy = false)
    (ha : i.acceptable s.params = true) : exec i s = .next ((s.latchFor i).start op) := by
  rw [exec_idle hop hb, if_pos ha]

theorem exec_unacceptable {i : Instr} {op : Operation} {s : State} (hop : i.operation = some op) (hb : s.busy = false)
    (ha : i.acceptable s.params = false) : exec i s = .refused (i.refusal s.params) := by
  rw [exec_idle hop hb, if_neg (by simp [ha])]

/-- A busy block refuses every instruction that `exec` is asked for, but NEW (log entry 13). -/
theorem exec_busy {s : State} {i : Instr} (hb : s.busy = true) (hi : ∀ r g, i ≠ .new r g) (hw : i.wellFormed = true) :
    exec i s = .refused .requestWhileBusy := by
  have gate (t : State) (ht : t.busy = true) (o : Host.Outcome State Fault Refusal) : whenIdle t o = .refused .requestWhileBusy :=
    if_pos ht
  cases i
  case new r g => exact absurd rfl (hi r g)
  case writeData bytes =>
    have filled : bytes.isEmpty = false := by simpa [Instr.wellFormed] using hw
    exact (if_neg (by simp [filled])).trans (gate s hb _)
  case setOrientation o => exact gate (s.latchOrientation o) hb _
  case setPixel x y c => exact gate ((s.latchPixel x y c).latchWindow x y x y) hb _
  case setAddressWindow x0 y0 x1 y1 => exact gate (s.latchWindow x0 y0 x1 y1) hb _
  all_goals exact gate s hb _

/-- A step of an idle block runs the request presented (rule R251). -/
theorem step_request {s : State} {i : Instr} {rest : List Instr} (hb : s.busy = false) (hr : s.requests = i :: rest) :
    step s = exec i { s with requests := rest } := by
  simp [step, hb, State.fetch, hr]

theorem step_busy {s : State} (hb : s.busy = true) : step s = .next s.resume := by simp [step, hb]

theorem step_quiet {s : State} (hb : s.busy = false) (hr : s.requests = []) : step s = .next s := by
  simp [step, hb, State.fetch, hr]

/-- Settles O1: NEW writes what the reset state holds. -/
theorem resetIsConstruction : Obligations.ResetIsConstruction := ⟨rfl, rfl, rfl, rfl, rfl, rfl, rfl⟩

/-- Settles O2: NEW is one state, written out in its definition. -/
theorem newConstructs : Obligations.NewConstructs := fun _ _ _ =>
  ⟨_, rfl, rfl, rfl, rfl, rfl, rfl, rfl, rfl, rfl, rfl, rfl, rfl, rfl⟩

/-- Settles O7: the gate of a wire command asks the table alone, and `opv` says what the table holds. -/
theorem olderCommandsRefusedOnNewer : Obligations.OlderCommandsRefusedOnNewer := by
  refine fun s m hb => ⟨fun hm => ⟨fun i qs hform => ?_, fun ps => ?_⟩, fun hg hnot => ?_, fun hg hleft => ?_⟩
  · obtain ⟨⟨op, hop⟩, hgate, hrefusal⟩ := Instr.gate_of_wireForm hform s.params
    rw [exec_unacceptable hop hb (hgate.trans hm), hrefusal]
  · exact exec_unacceptable rfl hb (by simp [Instr.acceptable, hm])
  · exact eq_false_of_ne_true (mt (inTable_newer hg).mp hnot)
  · simp only [List.mem_cons, Prod.mk.injEq, List.not_mem_nil, or_false] at hleft
    rcases hleft with h | h | h | h | h | h | h | h | h | h | h | h <;> obtain ⟨rfl, h⟩ := h <;>
      simp [inTable, opv, Params.older, hg, ← h]

/-- Settles O15: only WRITE_DATA has a condition on its operand, and it is asked before anything else. -/
theorem emptyWriteDataRefused : Obligations.EmptyWriteDataRefused := by
  intro s i
  have only_empty : i.wellFormed = false ↔ i = .writeData [] := by cases i <;> simp [Instr.wellFormed]
  refine ⟨only_empty, fun h => ?_⟩
  rw [only_empty.mp h]
  rfl

/-- Settles O23: INIT is not acceptable without an admissible `CFG`. -/
theorem initRefusals : Obligations.InitRefusals := by
  refine fun s hb => ⟨fun hg hc => ?_, fun l hl ⟨e, he, hout⟩ => ?_⟩
  · have hnone : s.params.configuration = none := by simp [Params.configuration, hg, hc]
    rw [exec_unacceptable (i := .init) rfl hb (by simp [Instr.acceptable, hnone])]
    simp [Instr.refusal, Instr.wireForm, hnone]
  · have hbad : admissible s.params l = false :=
      eq_false_of_ne_true fun h => by simp [(admissible_iff _ _).mp h e he] at hout
    rw [exec_unacceptable (i := .init) rfl hb (by simp [Instr.acceptable, hl, hbad])]
    simp [Instr.refusal, Instr.wireForm, hl]

/-- Settles O47, from the gate of every instruction and what a resumed operation keeps. -/
theorem requestHeldWhileBusy : Obligations.RequestHeldWhileBusy := fun s _ hb hi hw =>
  ⟨step_busy hb, s.resume_sameSetup.requests, exec_busy hb hi hw⟩

/-- Settles O48. -/
theorem idleBlockIsQuiet : Obligations.IdleBlockIsQuiet := fun _ => step_quiet

/-- Settles O49: a table word that decodes stands first among the requests of an idle block. -/
theorem stepRunsThePresentedRequest : Obligations.StepRunsThePresentedRequest := by
  refine ⟨fun _ _ _ => step_request, fun s nbits w i h => ?_⟩
  rw [State.withFetchWord, h]
  exact step_request rfl rfl

/-- Settles O53: what is not acceptable is a wire command or one of the three cases without a binary form. -/
theorem stopsAreOnlyTheseRefusals : Obligations.StopsAreOnlyTheseRefusals := by
  intro s i hb
  cases hform : i.wireForm with
  | some form =>
    obtain ⟨m, ps⟩ := form
    obtain ⟨⟨op, hop⟩, hgate, hrefusal⟩ := Instr.gate_of_wireForm hform s.params
    cases hm : inTable s.params m with
    | true => exact .inl ⟨_, exec_accepted hop hb (hgate.trans hm)⟩
    | false =>
      exact .inr (.inr (.inl ⟨m, hm, hrefusal ▸ exec_unacceptable hop hb (hgate.trans hm), .inr ⟨ps, rfl⟩⟩))
  | none =>
    obtain ha | rfl | ⟨m, ps, rfl, hm⟩ | ⟨rfl, hc⟩ := Instr.acceptable_of_wireForm_eq_none hform s.params
    · refine .inl ?_
      cases hop : i.operation with
      | some op => exact ⟨_, exec_accepted hop hb ha⟩
      | none =>
        obtain ⟨r, g, rfl⟩ | ⟨ps, rfl⟩ := Instr.operation_eq_none hop
        · exact ⟨_, rfl⟩
        · exact ⟨_, exec_draw_idle ps hb⟩
    · exact .inr (.inl ⟨rfl, rfl⟩)
    · exact .inr (.inr (.inl ⟨m, hm, exec_unacceptable rfl hb (by simp [Instr.acceptable, hm]), .inl ⟨ps, rfl⟩⟩))
    · have refused : exec .init s = .refused (Instr.init.refusal s.params) :=
        exec_unacceptable rfl hb (by simp [Instr.acceptable, hc])
      cases hl : s.params.configuration with
      | none => exact .inr (.inr (.inr (.inl ⟨rfl, rfl, by rw [refused]; simp [Instr.refusal, Instr.wireForm, hl]⟩)))
      | some l =>
        have outside : ∃ e ∈ l, inTable s.params e.mnemonic = false := by simpa [hl, admissible] using hc
        exact .inr (.inr (.inr (.inr ⟨rfl, ⟨l, rfl, outside⟩, by rw [refused]; simp [Instr.refusal, Instr.wireForm, hl]⟩)))

end Sys2Proof.Machine
end

section
/-! PROOFS. What a step reads (rules R26, R27, R31, R32, R40): two blocks that agree in their configuration, their environment and the
position of the operation in progress step alike. -/

namespace Sys2Proof.Machine

open Sys2Proof

theorem State.takeReply_replies (s : State) : s.takeReply.replies = s.replies.tail := by
  unfold State.takeReply
  split <;> simp_all

theorem State.takeReply_draws (s : State) : s.takeReply.draws = if s.replies = [] then s.draws + 1 else s.draws := by
  unfold State.takeReply
  split <;> simp_all

theorem State.takeDelay_timer (s : State) : s.takeDelay.timer = s.timer.tail := by
  unfold State.takeDelay
  split <;> simp_all

theorem State.takeDelay_draws (s : State) : s.takeDelay.draws = if s.timer = [] then s.draws + 1 else s.draws := by
  unfold State.takeDelay
  split <;> simp_all

/-- The two blocks agree in all that an idle block may read, and the first did after `a` what the second did after `b`. -/
structure Twins (a b : List Event) (s t : State) : Prop where
  params : s.params = t.params
  cfg : s.cfg = t.cfg
  requests : s.requests = t.requests
  replies : s.replies = t.replies
  timer : s.timer = t.timer
  draws : s.draws = t.draws
  trace : ∃ evs, s.trace = a ++ evs ∧ t.trace = b ++ evs

/-- Twins at the same place of the same operation, if any. -/
structure InStep (a b : List Event) (s t : State) : Prop extends Twins a b s t where
  busy : s.busy = t.busy
  op : s.op = t.op
  upc : s.upc = t.upc
  mprog : s.mprog = t.mprog
  drawing : s.drawing = t.drawing

/-- What two steps from twins end in: both idle, or both at the same place of the same operation. -/
def SameAnswer (a b : List Event) (s t : State) : Prop := Twins a b s t ∧ SameProgress s t

section

variable {a b : List Event} {s t : State}

theorem Twins.sameInputs (h : Twins a b s t) : SameInputs s t := ⟨h.params, h.cfg, h.requests, h.replies, h.timer, h.draws⟩

theorem InStep.sameAnswer (h : InStep a b s t) : SameAnswer a b s t := ⟨h.toTwins, h.busy, fun _ => ⟨h.op, h.upc, h.mprog, h.drawing⟩⟩

theorem Twins.withRequests (h : Twins a b s t) (rest : List Instr) :
    Twins a b { s with requests := rest } { t with requests := rest } := { h with requests := rfl }

theorem Twins.nextReply (h : Twins a b s t) : s.nextReply = t.nextReply := by
  simp only [State.nextReply, h.replies, h.draws]

theorem Twins.nextDelay (h : Twins a b s t) : s.nextDelay = t.nextDelay := by
  simp only [State.nextDelay, h.timer, h.draws]

theorem Twins.record (h : Twins a b s t) (e : Event) : Twins a b (s.record e) (t.record e) := by
  obtain ⟨evs, hs, ht⟩ := h.trace
  exact { h with trace := ⟨evs ++ [e], by simp [hs], by simp [ht]⟩ }

theorem InStep.record (h : InStep a b s t) (e : Event) : InStep a b (s.record e) (t.record e) :=
  { h with toTwins := h.toTwins.record e }

theorem InStep.setDc (h : InStep a b s t) (d : Bool) : InStep a b (s.setDc d) (t.setDc d) := { h with }

theorem InStep.setRst (h : InStep a b s t) (r : Bool) : InStep a b (s.setRst r) (t.setRst r) := { h with }

theorem InStep.deliver (h : InStep a b s t) (bytes : List Byte) : InStep a b (s.deliver bytes) (t.deliver bytes) := { h with }

theorem InStep.deliverPart (h : InStep a b s t) (bytes : List Byte) : InStep a b (s.deliverPart bytes) (t.deliverPart bytes) :=
  { h with draws := congrArg (· + 1) h.draws }

theorem InStep.advance (h : InStep a b s t) : InStep a b s.advance t.advance := { h with upc := congrArg (· + 1) h.upc }

theorem InStep.panelAfterOk (h : InStep a b s t) : InStep a b s.panelAfterOk t.panelAfterOk := { h with }

theorem InStep.panelAfterErr (h : InStep a b s t) : InStep a b s.panelAfterErr t.panelAfterErr := { h with }

theorem Twins.release (h : Twins a b s t) : SameAnswer a b s.release t.release := ⟨{ h with }, rfl, nofun⟩

theorem Twins.returnToHost (h : Twins a b s t) (r : Result) : SameAnswer a b (s.returnToHost r) (t.returnToHost r) :=
  (h.record (.ret r)).release

theorem InStep.takeReply (h : InStep a b s t) : InStep a b s.takeReply t.takeReply := by
  obtain ⟨⟨hparams, hcfg, hrequests, hreplies, htimer, hdraws, htrace⟩, hbusy, hop, hupc, hmprog, hdrawing⟩ := h
  exact ⟨⟨by simpa, by simpa, by simpa, by simp only [State.takeReply_replies, hreplies], by simpa,
    by simp only [State.takeReply_draws, hreplies, hdraws], by simpa⟩, by simpa, by simpa, by simpa, by simpa, by simpa⟩

theorem InStep.takeDelay (h : InStep a b s t) : InStep a b s.takeDelay t.takeDelay := by
  obtain ⟨⟨hparams, hcfg, hrequests, hreplies, htimer, hdraws, htrace⟩, hbusy, hop, hupc, hmprog, hdrawing⟩ := h
  exact ⟨⟨by simpa, by simpa, by simpa, by simpa, by simp only [State.takeDelay_timer, htimer],
    by simp only [State.takeDelay_draws, htimer, hdraws], by simpa⟩, by simpa, by simpa, by simpa, by simpa, by simpa⟩

theorem InStep.complete (h : InStep a b s t) : SameAnswer a b s.complete t.complete := by
  unfold State.complete
  rw [← h.op]
  split
  · exact h.panelAfterOk.toTwins.returnToHost .ok
  · exact h.panelAfterOk.toTwins.release

theorem InStep.abort (h : InStep a b s t) (e : TransportError) : SameAnswer a b (s.abort e) (t.abort e) := by
  unfold State.abort
  rw [← h.op]
  split
  · exact h.panelAfterErr.toTwins.returnToHost (.err e)
  · exact h.panelAfterErr.toTwins.release

/-- Two runs that got to the same place in the same way. -/
inductive Run.InStep (a b : List Event) : Run → Run → Prop
  | finished {s t : State} (h : Machine.InStep a b s t) : Run.InStep a b (.finished s) (.finished t)
  | failed {s t : State} (e : TransportError) (h : Machine.InStep a b s t) : Run.InStep a b (.failed e s) (.failed e t)
  | waiting {s t : State} (h : Machine.InStep a b s t) : Run.InStep a b (.waiting s) (.waiting t)

theorem InStep.transmit (h : InStep a b s t) (bytes : List Byte) : Run.InStep a b (s.transmit bytes) (t.transmit bytes) := by
  unfold State.transmit
  rw [← h.nextReply]
  cases s.nextReply with
  | ok => exact .finished ((h.takeReply.record _).deliver bytes).advance
  | err e => exact .failed e ((h.takeReply.record _).deliverPart bytes)
  | wait => exact .waiting h.takeReply

theorem InStep.pause (h : InStep a b s t) (n : Nat) : Run.InStep a b (s.pause n) (t.pause n) := by
  unfold State.pause
  rw [← h.nextDelay]
  cases s.nextDelay with
  | returned => exact .finished (h.takeDelay.record _).advance
  | wait => exact .waiting h.takeDelay

theorem InStep.perform (h : InStep a b s t) (m : Micro) : Run.InStep a b (s.perform m) (t.perform m) := by
  cases m with
  | rstSet r => exact .finished ((h.setRst r).record _).advance
  | dcSet d => exact .finished ((h.setDc d).record _).advance
  | tx bytes => exact h.transmit bytes
  | delay n => exact h.pause n

theorem InStep.runMicros (h : InStep a b s t) (ms : List Micro) : Run.InStep a b (runMicros ms s) (runMicros ms t) := by
  induction ms generalizing s t with
  | nil => exact .finished h
  | cons m ms ih =>
    have step := h.perform m
    rw [runMicros_cons, runMicros_cons]
    generalize s.perform m = r, t.perform m = u at step
    cases step with
    | finished k => exact ih k
    | failed e k => exact .failed e k
    | waiting k => exact .waiting k

/-- The next pixel of a DRAW overwrites all that a SET_PIXEL reads of the latches. -/
theorem Twins.acceptDrawn (h : Twins a b s t) (q : Pixel) (rest : List Pixel) :
    InStep a b (s.acceptDrawn q rest) (t.acceptDrawn q rest) :=
  { h with busy := rfl, op := rfl, upc := rfl, drawing := rfl,
           mprog := congrArg (pixelProgram · q.x q.y q.color) h.params }

theorem Twins.drawPixels (h : Twins a b s t) (ps : List Pixel) : SameAnswer a b (drawPixels ps s) (drawPixels ps t) := by
  induction ps generalizing s t with
  | nil => exact h.returnToHost .ok
  | cons q ps ih =>
    have pixel := (h.acceptDrawn q ps).runMicros (pixelProgram s.params q.x q.y q.color)
    rw [drawPixels_cons, drawPixels_cons, ← h.params]
    generalize runMicros _ (s.acceptDrawn q ps) = r, runMicros _ (t.acceptDrawn q ps) = u at pixel
    cases pixel with
    | finished k => exact ih k.panelAfterOk.toTwins
    | failed e k => exact k.abort e
    | waiting k => exact k.sameAnswer

theorem Run.InStep.settle {r u : Run} (h : Run.InStep a b r u) : SameAnswer a b r.settle u.settle := by
  cases h with
  | @finished s t k =>
    unfold Run.settle
    simp only [← k.drawing]
    cases s.drawing with
    | none => exact k.complete
    | some rest => exact k.panelAfterOk.toTwins.drawPixels rest
  | failed e k => exact k.abort e
  | waiting k => exact k.sameAnswer

theorem InStep.resume (h : InStep a b s t) : SameAnswer a b s.resume t.resume := by
  unfold State.resume
  rw [← h.mprog, ← h.upc]
  exact (h.runMicros _).settle

/-- The operands an operation reads are those its instruction latches (rules R28 to R30). -/
theorem expansion_latched {i : Instr} {op : Operation} (h : i.operation = some op) (p : Params) (c : Cfg) (l l' : Latches) :
    expansion p c (i.latched l) op = expansion p c (i.latched l') op := by
  cases i <;> cases h <;> rfl

theorem Twins.programOf (h : Twins a b s t) (i : Instr) : s.programOf i = t.programOf i := by
  unfold State.programOf
  cases hop : i.operation with
  | none => rfl
  | some op => simp only [← h.params, ← h.cfg, expansion_latched hop s.params s.cfg s.latch t.latch]

theorem Twins.start (h : Twins a b s t) {i : Instr} {op : Operation} (hop : i.operation = some op) :
    SameAnswer a b ((s.latchFor i).start op) ((t.latchFor i).start op) := by
  refine InStep.resume { h with busy := rfl, op := rfl, upc := rfl, drawing := rfl, mprog := ?_ }
  rw [State.accept_mprog, State.accept_mprog, ← State.programOf_eq s hop, ← State.programOf_eq t hop, h.programOf i]

/-- What two steps may answer: next states that went alike, or one and the same refusal. -/
inductive OutcomesAgree (a b : List Event) : Host.Outcome State Fault Refusal → Host.Outcome State Fault Refusal → Prop
  | next {s t : State} (h : SameAnswer a b s t) : OutcomesAgree a b (.next s) (.next t)
  | refused (r : Refusal) : OutcomesAgree a b (.refused r) (.refused r)

theorem Twins.exec (h : Twins a b s t) (hs : s.busy = false) (ht : t.busy = false) {i : Instr} (hi : ∀ r g, i ≠ .new r g) :
    OutcomesAgree a b (exec i s) (exec i t) := by
  cases hop : i.operation with
  | some op =>
    rw [exec_idle hop hs, exec_idle hop ht, ← h.params]
    split
    · exact .next (h.start hop)
    · exact .refused _
  | none =>
    obtain ⟨r, g, rfl⟩ | ⟨ps, rfl⟩ := Instr.operation_eq_none hop
    · exact absurd rfl (hi r g)
    · rw [exec_draw_idle ps hs, exec_draw_idle ps ht]
      exact .next (h.drawPixels ps)

/-- Is a NEW the next thing the block runs? -/
def State.facesNew (s : State) : Prop := s.busy = false ∧ ∃ r g, s.requests.head? = some (.new r g)

/-- NEW forgets all but the environment and its own operands, the trace too. -/
theorem Twins.step_new (h : Twins a b s t) (hbusy : s.busy = t.busy) (hn : s.facesNew) :
    ∃ s' t', step s = .next s' ∧ step t = .next t' ∧ SameInputs s' t' ∧ SameProgress s' t' ∧ s'.trace = [] ∧ t'.trace = [] := by
  obtain ⟨hs, r, g, hhead⟩ := hn
  obtain ⟨rest, hrest⟩ := List.head?_eq_some_iff.mp hhead
  rw [step_request hs hrest, step_request (hbusy ▸ hs) (h.requests ▸ hrest)]
  exact ⟨_, _, rfl, rfl, ⟨h.params, rfl, rfl, h.replies, h.timer, h.draws⟩, ⟨rfl, nofun⟩, rfl, rfl⟩

theorem Twins.step_other (h : Twins a b s t) (hp : SameProgress s t) (hn : ¬ s.facesNew) :
    OutcomesAgree a b (step s) (step t) := by
  obtain ⟨hbusy, hplace⟩ := hp
  cases hs : s.busy with
  | true =>
    obtain ⟨hop, hupc, hmprog, hdrawing⟩ := hplace hs
    rw [step_busy hs, step_busy (hbusy ▸ hs)]
    exact .next (InStep.resume { h with busy := hbusy, op := hop, upc := hupc, mprog := hmprog, drawing := hdrawing })
  | false =>
    have ht : t.busy = false := hbusy ▸ hs
    cases hr : s.requests with
    | nil =>
      rw [step_quiet hs hr, step_quiet ht (h.requests ▸ hr)]
      exact .next ⟨h, hbusy, hplace⟩
    | cons i rest =>
      rw [step_request hs hr, step_request ht (h.requests ▸ hr)]
      refine (h.withRequests rest).exec hs ht ?_
      rintro r g rfl
      exact hn ⟨hs, r, g, by rw [hr]; rfl⟩

end

/-- Settles O52: both steps go alike, from the two traces as they were, or from empty ones after a NEW. -/
theorem nothingButInputsIsRead : Obligations.NothingButInputsIsRead := by
  rintro s t ⟨hparams, hcfg, hrequests, hreplies, htimer, hdraws⟩ hplace
  have twins : Twins s.trace t.trace s t := ⟨hparams, hcfg, hrequests, hreplies, htimer, hdraws, [], by simp, by simp⟩
  by_cases hn : s.facesNew
  · obtain ⟨s', t', hs, ht, hinputs, hprogress, htraces⟩ := twins.step_new hplace.1 hn
    rw [hs, ht]
    exact ⟨hinputs, hprogress, fun _ => htraces, fun hnot => absurd hn hnot⟩
  · have h := twins.step_other hplace hn
    generalize step s = o, step t = o' at h
    cases h with
    | refused r => rfl
    | next k =>
      obtain ⟨k, hprogress⟩ := k
      exact ⟨k.sameInputs, hprogress, fun hnew => absurd hnew hn, fun _ => k.trace⟩

end Sys2Proof.Machine
end

section
/-! PROOFS. What is known of the panel stays sound (rules R66, R177, R183, R262): every way the panel changes keeps its invariant. -/

namespace Sys2Proof.Machine

open Sys2Proof

variable {p : Params} {q r : Panel}

theorem Panel.standing_iff : q.standing = true ↔ q.cfg = .ok ∧ q.calibrated = true := by simp [Panel.standing]

/-- Nothing is known but, perhaps, that the panel is asleep. -/
theorem Panel.inv_asleep (p : Params) (c : PanelCfg) {a : Option Bool} (ha : a ≠ some true) : { Panel.blank c with awake := a }.Inv p :=
  ⟨rfl, fun _ => ⟨rfl, ha⟩, fun _ => rfl, nofun, nofun, nofun⟩

theorem Panel.inv_blank (p : Params) (c : PanelCfg) : (Panel.blank c).Inv p := Panel.inv_asleep p c nofun

theorem Panel.inv_broughtUp (p : Params) (q : Panel) (n : Nat) : (q.broughtUp p n).Inv p :=
  Panel.inv_asleep p q.cfg (by split <;> simp)

/-- The column range, where it is known, is in order and inside the panel (U4). -/
def Panel.ColumnsInside (p : Params) (q : Panel) : Prop :=
  ∀ c, q.columns = some c → c.first.toNat ≤ c.last.toNat ∧ ∃ f, q.frame = some f ∧ c.last.toNat < (frameSize p f).width

/-- The row range, where it is known, is in order and inside the panel (U4). -/
def Panel.RowsInside (p : Params) (q : Panel) : Prop :=
  ∀ c, q.rows = some c → c.first.toNat ≤ c.last.toNat ∧ ∃ f, q.frame = some f ∧ c.last.toNat < (frameSize p f).height

theorem Panel.Inv.columnsInside (h : q.Inv p) : q.ColumnsInside p := by
  obtain ⟨-, -, -, -, hcolumns, -⟩ := h
  exact hcolumns

theorem Panel.Inv.rowsInside (h : q.Inv p) : q.RowsInside p := by
  obtain ⟨-, -, -, -, -, hrows⟩ := h
  exact hrows

/-- A panel that stands, with no cell known. -/
theorem Panel.inv_no_cells (hs : q.standing = true) (hfm : q.fm = []) (hc : q.ColumnsInside p) (hr : q.RowsInside p) : q.Inv p :=
  ⟨by rw [hfm]; rfl, fun h => by simp [hs] at h, fun _ => hfm, by simp [hfm], hc, hr⟩

/-- A claim is sound where what it claims is sound of a panel that stands. -/
theorem Panel.inv_claim (h : q.standing = true → r.Inv p) : (q.claim r).Inv p := by
  cases hs : q.standing with
  | true => rw [Panel.claim_standing r hs]; exact h hs
  | false => rw [Panel.claim_fallen r hs]; exact Panel.inv_blank p q.cfg

theorem Panel.inv_obscured (hs : q.standing = true) : q.obscured.Inv p := Panel.inv_no_cells hs rfl nofun nofun

theorem columnSpan_inside {f : Option Frame} {a b : Word} {c : Span} (h : columnSpan p f a b = some c) :
    c.first.toNat ≤ c.last.toNat ∧ ∃ g, f = some g ∧ c.last.toNat < (frameSize p g).width := by
  unfold columnSpan at h
  split at h
  · cases h
  · split at h
    · cases h
      exact ⟨by tauto, _, rfl, by tauto⟩
    · cases h

theorem rowSpan_inside {f : Option Frame} {a b : Word} {c : Span} (h : rowSpan p f a b = some c) :
    c.first.toNat ≤ c.last.toNat ∧ ∃ g, f = some g ∧ c.last.toNat < (frameSize p g).height := by
  unfold rowSpan at h
  split at h
  · cases h
  · split at h
    · cases h
      exact ⟨by tauto, _, rfl, by tauto⟩
    · cases h

theorem Panel.inv_columnsSet (h : q.Inv p) (a b : Word) : (q.columnsSet p a b).Inv p := by
  refine Panel.inv_claim fun hs => ?_
  split
  · refine Panel.inv_no_cells hs rfl (fun c hc => ?_) h.rowsInside
    cases hc
    exact columnSpan_inside ‹_›
  · exact Panel.inv_obscured hs

theorem Panel.inv_rowsSet (h : q.Inv p) (a b : Word) : (q.rowsSet p a b).Inv p := by
  refine Panel.inv_claim fun hs => ?_
  split
  · refine Panel.inv_no_cells hs rfl h.columnsInside (fun c hc => ?_)
    cases hc
    exact rowSpan_inside ‹_›
  · exact Panel.inv_obscured hs

theorem Panel.inv_windowSet (q : Panel) (a b c d : Word) : (q.windowSet p a b c d).Inv p := by
  refine Panel.inv_claim fun hs => ?_
  split
  · refine Panel.inv_no_cells hs rfl (fun c hc => ?_) (fun c hc => ?_)
    · cases hc
      exact columnSpan_inside ‹_›
    · cases hc
      exact rowSpan_inside ‹_›
  · exact Panel.inv_obscured hs

theorem Panel.inv_pixelStreamed (h : q.Inv p) : q.pixelStreamed.Inv p := by
  refine Panel.inv_claim fun hs => ?_
  split
  · exact Panel.inv_no_cells hs rfl h.columnsInside h.rowsInside
  · exact Panel.inv_obscured hs

/-- A location inside the panel, by its two coordinates (rule R66 (b)). -/
theorem inFrame_iff {f : Option Frame} {x y : Word} :
    inFrame p f x y = true ↔ ∃ g, f = some g ∧ x.toNat < (frameSize p g).width ∧ y.toNat < (frameSize p g).height := by
  cases f <;> simp [inFrame]

theorem cellKey_div (x y : Word) : cellKey x y / 65536 = x.toNat := by
  have := y.isLt
  unfold cellKey
  omega

theorem cellKey_mod (x y : Word) : cellKey x y % 65536 = y.toNat := by
  have := y.isLt
  unfold cellKey
  omega

/-- A cell of a written memory is the one written or was there before. -/
theorem FrameMem.mem_write {m : FrameMem} {k : Nat} {v : Word} {c : Nat × Word} (h : c ∈ m.write k v) : c = (k, v) ∨ c ∈ m := by
  induction m with
  | nil => exact .inl (by simpa [FrameMem.write] using h)
  | cons d m ih =>
    unfold FrameMem.write at h
    split at h
    · simpa using h
    · split at h
      · rcases List.mem_cons.mp h with rfl | h
        · exact .inl rfl
        · exact .inr (List.mem_cons_of_mem _ h)
      · rcases List.mem_cons.mp h with rfl | h
        · exact .inr List.mem_cons_self
        · exact (ih h).imp_right (List.mem_cons_of_mem _)

theorem Panel.inv_pixelWritten (h : q.Inv p) (l : Latches) : (q.pixelWritten p l).Inv p := by
  refine Panel.inv_claim fun hs => ?_
  split
  case isFalse => exact Panel.inv_obscured hs
  case isTrue hin =>
    obtain ⟨hwords, hin⟩ := Bool.and_eq_true_iff.mp hin
    obtain ⟨f, hf, hx, hy⟩ := inFrame_iff.mp hin
    obtain ⟨hwf, -, -, hcells, -, -⟩ := h
    refine ⟨FrameMem.write_wf _ _ hwf, fun hnot => ?_, fun hnot => ?_, fun c hc => ?_, fun c hc => ?_, fun c hc => ?_⟩
    · exact absurd (hs.symm.trans hnot) nofun
    · exact absurd (hwords.symm.trans hnot) nofun
    · rcases FrameMem.mem_write hc with rfl | hc
      · exact ⟨f, hf, by rwa [cellKey_div], by rwa [cellKey_mod]⟩
      · exact hcells c hc
    · cases hc
      exact ⟨le_rfl, f, hf, hx⟩
    · cases hc
      exact ⟨le_rfl, f, hf, hy⟩

theorem Panel.inv_commanded (h : q.Inv p) (m : Mnemonic) (ps : List Byte) : (q.commanded p m ps).Inv p := by
  unfold Panel.commanded
  split
  · exact Panel.inv_claim fun hs => Panel.inv_no_cells hs rfl h.columnsInside h.rowsInside
  · exact Panel.inv_claim fun hs => Panel.inv_no_cells hs rfl h.columnsInside h.rowsInside
  · exact Panel.inv_columnsSet h _ _
  · exact Panel.inv_rowsSet h _ _
  · exact Panel.inv_pixelStreamed h
  · exact Panel.inv_claim fun hs => Panel.inv_no_cells hs rfl nofun nofun
  · exact Panel.inv_claim fun hs => Panel.inv_no_cells hs rfl h.columnsInside h.rowsInside
  · exact Panel.inv_blank p _

theorem Panel.inv_initialised (p : Params) (c : Cfg) : (Panel.initialised p c).Inv p := by
  unfold Panel.initialised
  split
  · exact Panel.inv_no_cells rfl rfl nofun nofun
  · exact Panel.inv_blank p _

theorem Panel.inv_afterOk (h : q.Inv p) (op : Operation) (c : Cfg) (l : Latches) : (Panel.afterOk op p c l q).Inv p := by
  cases op with
  | init => exact Panel.inv_initialised p c
  | setOrientation => exact Panel.inv_claim fun hs => Panel.inv_no_cells hs rfl nofun nofun
  | setPixel => exact Panel.inv_pixelWritten h l
  | setAddressWindow => exact Panel.inv_windowSet q _ _ _ _
  | softwareReset => exact Panel.inv_asleep p _ (by split <;> simp)
  | sleepOut => exact Panel.inv_claim fun hs => Panel.inv_no_cells hs rfl h.columnsInside h.rowsInside
  | displayOn => exact Panel.inv_claim fun hs => Panel.inv_no_cells hs rfl h.columnsInside h.rowsInside
  | setColumns a b => exact Panel.inv_columnsSet h a b
  | setRows a b => exact Panel.inv_rowsSet h a b
  | writePixel c => exact Panel.inv_pixelStreamed h
  | command m ps => exact Panel.inv_commanded h m ps
  | startData => exact h
  | writeData bytes => exact Panel.inv_blank p _
  | hardReset => exact Panel.inv_blank p _
  | delayMs n => exact h

theorem Panel.inv_afterErr (p : Params) (op : Operation) (q : Panel) : (Panel.afterErr op q).Inv p := by
  cases op <;> exact Panel.inv_blank p _

end Sys2Proof.Machine
end

section
/-! PROOFS. The invariant of the state (rules R21, R22, R28 to R30, R40, R66) holds after reset and is kept by every step. -/

namespace Sys2Proof.Machine

open Sys2Proof

theorem Run.settle_finished {s : State} (hd : s.drawing = none) : (Run.finished s).settle = s.complete := by
  simp [Run.settle, hd]

theorem Run.settle_drawing {s : State} {ps : List Pixel} (hd : s.drawing = some ps) :
    (Run.finished s).settle = drawPixels ps s.panelAfterOk := by
  simp [Run.settle, hd]

theorem State.Inv.panelInv {s : State} (h : s.Inv) : s.panel.Inv s.params := by
  obtain ⟨-, -, hp⟩ := h
  exact hp

theorem State.complete_busy (s : State) : s.complete.busy = false := by
  obtain ⟨-, -, -, -, hbusy, -⟩ := s.complete_keeps
  exact hbusy

theorem State.abort_busy (s : State) (e : TransportError) : (s.abort e).busy = false := by
  obtain ⟨-, -, -, -, hbusy, -⟩ := s.abort_keeps e
  exact hbusy

/-- Of an idle block only the panel has to be sound. -/
theorem State.inv_idle {s : State} (hb : s.busy = false) (hd : s.drawing = none) (hp : s.panel.Inv s.params) : s.Inv :=
  ⟨⟨fun _ => hd, fun h => absurd hd h, fun h => by simp [hb] at h⟩, fun h => by simp [hb] at h, hp⟩

theorem State.inv_complete {s : State} (hp : s.panel.Inv s.params) : s.complete.Inv := by
  obtain ⟨hparams, -, -, -, hbusy, -, hdrawing, -, -, -, -, -, hpanel, -⟩ := s.complete_keeps
  exact State.inv_idle hbusy hdrawing (by rw [hparams, hpanel]; exact Panel.inv_afterOk hp ..)

theorem State.inv_abort (s : State) (e : TransportError) : (s.abort e).Inv := by
  obtain ⟨hparams, -, -, -, hbusy, -, hdrawing, -, -, -, -, -, hpanel, -⟩ := s.abort_keeps e
  exact State.inv_idle hbusy hdrawing (by rw [hpanel]; exact Panel.inv_afterErr ..)

/-- Wherever a run got to, it is at a position of its program, with the panel as while the operation runs. -/
theorem runMicros_position (ms : List Micro) (s : State) :
    ∃ n ≤ ms.length, (runMicros ms s).state.upc = s.upc + n ∧ (runMicros ms s).state.panel = s.panelDuring n := by
  have h := runMicros_spec ms s
  cases hr : runMicros ms s with
  | finished t =>
    rw [hr] at h
    exact ⟨ms.length, le_rfl, h.upc, h.panel⟩
  | failed e t =>
    rw [hr] at h
    obtain ⟨pre, bytes, post, u, part, rfl, hu, -, -, -, hupc, hpanel, -⟩ := h
    exact ⟨pre.length, by simp, hupc.trans hu.upc, hpanel.trans hu.panel⟩
  | waiting t =>
    rw [hr] at h
    obtain ⟨pre, m, post, rfl, -, ht⟩ := h
    exact ⟨pre.length, by simp, ht.upc, ht.panel⟩

theorem State.inv_panelDuring {s : State} (hp : s.panel.Inv s.params) (n : Nat) : (s.panelDuring n).Inv s.params := by
  unfold State.panelDuring
  split
  · exact hp
  · split
    · exact Panel.inv_broughtUp ..
    · exact hp

/-- The operation in progress keeps the invariant wherever its run gets to. -/
theorem State.Inv.runMicros {s : State} (h : s.Inv) (hb : s.busy = true) : (runMicros (s.mprog.drop s.upc) s).state.Inv := by
  obtain ⟨⟨-, hdrawing, hbusy⟩, hbring, hp⟩ := h
  obtain ⟨hupc, hmprog, hinit, hpixel⟩ := hbusy hb
  obtain ⟨n, hn, hat, hpanel⟩ := runMicros_position (s.mprog.drop s.upc) s
  have k := runMicros_kept (s.mprog.drop s.upc) s
  generalize (Machine.runMicros (s.mprog.drop s.upc) s).state = t at hat hpanel k
  have inside : t.upc ≤ t.mprog.length := by
    rw [List.length_drop] at hn
    rw [hat, k.mprog]
    omega
  refine ⟨⟨fun hi => ?_, by rwa [k.drawing, k.op], fun _ => ⟨inside, ?_, ?_, ?_⟩⟩, fun _ ho hpos => ?_, ?_⟩
  · exact absurd (hi.symm.trans (k.busy.trans hb)) nofun
  · rw [k.mprog, k.params, k.cfg, k.latch, k.op, hmprog]
  · rwa [k.op, k.params]
  · rwa [k.op, k.latch]
  · rw [k.op] at ho
    rw [hpanel, hat, k.params]
    unfold State.panelDuring
    split
    case isTrue hz =>
      subst hz
      exact hbring hb ho (by omega)
    case isFalse => exact (Panel.broughtUp_broughtUp ..).symm
  · rw [hpanel, k.params]
    exact State.inv_panelDuring hp n

/-- The next pixel of a DRAW is accepted as a SET_PIXEL whose window is its pixel (rules R215, R230). -/
theorem State.inv_acceptDrawn {s : State} (hp : s.panel.Inv s.params) (q : Pixel) (rest : List Pixel) : (s.acceptDrawn q rest).Inv :=
  ⟨⟨nofun, fun _ => rfl, fun _ => ⟨Nat.zero_le _, rfl, nofun, fun _ => rfl⟩⟩, nofun, hp⟩

theorem State.inv_drawPixels (ps : List Pixel) {s : State} (hp : s.panel.Inv s.params) : (drawPixels ps s).Inv := by
  induction ps generalizing s with
  | nil => exact State.inv_idle rfl rfl hp
  | cons q ps ih =>
    have run := (State.inv_acceptDrawn hp q ps).runMicros rfl
    rw [drawPixels_cons]
    change (Machine.runMicros (pixelProgram s.params q.x q.y q.color) (s.acceptDrawn q ps)).state.Inv at run
    generalize Machine.runMicros _ (s.acceptDrawn q ps) = r at run
    cases r with
    | finished t => exact ih (Panel.inv_afterOk (State.Inv.panelInv run) ..)
    | failed e t => exact t.inv_abort e
    | waiting t => exact run

theorem State.Inv.resume {s : State} (h : s.Inv) (hb : s.busy = true) : s.resume.Inv := by
  have run := h.runMicros hb
  unfold State.resume
  generalize Machine.runMicros _ s = r at run
  cases r with
  | finished t =>
    obtain ⟨-, -, hp⟩ : t.Inv := run
    cases hd : t.drawing with
    | none => rw [Run.settle_finished hd]; exact State.inv_complete hp
    | some ps => rw [Run.settle_drawing hd]; exact State.inv_drawPixels ps (Panel.inv_afterOk hp ..)
  | failed e t => exact t.inv_abort e
  | waiting t => exact run

/-- An accepted instruction begins with the invariant (rules R21, R22, R28 to R30). -/
theorem State.inv_accept {s : State} {i : Instr} {op : Operation} (hop : i.operation = some op) (ha : i.acceptable s.params = true)
    (hp : s.panel.Inv s.params) : ((s.latchFor i).accept op).Inv := by
  refine ⟨⟨nofun, fun h => absurd rfl h, fun _ => ⟨Nat.zero_le _, rfl, ?_, ?_⟩⟩, fun _ _ h => absurd h (lt_irrefl 0), hp⟩
  · rintro rfl
    obtain rfl : i = .init := by cases i <;> cases hop; rfl
    have supplied : s.params.configuration.any (admissible s.params) = true := by
      simpa [Instr.acceptable, Instr.wellFormed, Instr.wireForm] using ha
    exact Option.isSome_of_any supplied
  · rintro rfl
    obtain ⟨x, y, c, rfl⟩ : ∃ x y c, i = .setPixel x y c := by cases i <;> cases hop; exact ⟨_, _, _, rfl⟩
    rfl

theorem State.inv_exec {s t : State} {i : Instr} (hp : s.panel.Inv s.params) (h : exec i s = .next t) : t.Inv := by
  obtain ⟨r, g, rfl⟩ | ⟨ps, rfl, -, rfl⟩ | ⟨op, hop, -, ha, rfl⟩ := exec_cases h
  · cases h
    exact State.inv_idle rfl rfl (Panel.inv_blank _ _)
  · exact State.inv_drawPixels ps hp
  · exact (State.inv_accept hop ha hp).resume rfl

theorem State.Inv.step {s t : State} (h : s.Inv) (hstep : step s = .next t) : t.Inv := by
  obtain ⟨hb, rfl⟩ | ⟨-, -, rfl⟩ | ⟨-, i, rest, -, hx⟩ := step_cases hstep
  · exact h.resume hb
  · exact h
  · exact State.inv_exec (s := { s with requests := rest }) h.panelInv hx

/-- Settles O58: the parameters never change, so neither does what their check says. -/
theorem everyStepKeepsInvariant : Obligations.EveryStepKeepsInvariant := by
  intro s t h hstep
  obtain ⟨hparams, -⟩ := step_configuration_fixed hstep
  exact ⟨h.step hstep, fun hw => hparams ▸ hw⟩

/-- Settles O59: nothing is known, nothing runs, nothing was done, and the configuration check is `built_wellFormed`. -/
theorem resetHasInvariant : Obligations.ResetHasInvariant :=
  ⟨State.inv_idle rfl rfl (Panel.inv_blank _ _), ⟨rfl, .quiet, rfl, fun _ => rfl, nofun⟩, built_wellFormed⟩

end Sys2Proof.Machine
end

section
/-! PROOFS. The framing discipline (rules R155, R158, R160): every micro-program of a host operation keeps it, and so does every
step. -/

namespace Sys2Proof.Machine

open Sys2Proof

variable {p : Params}

theorem Phase.run_append (φ : Phase) (es fs : List Event) : Phase.run p φ (es ++ fs) = (Phase.run p φ es).bind (Phase.run p · fs) := by
  induction es generalizing φ with
  | nil => rfl
  | cons e es ih =>
    rw [List.cons_append, Phase.run, Phase.run]
    cases φ.event p e with
    | none => rfl
    | some ψ => exact ih ψ

theorem Phase.run_append_of {φ ψ : Phase} {es : List Event} (h : Phase.run p φ es = some ψ) (fs : List Event) :
    Phase.run p φ (es ++ fs) = Phase.run p ψ fs := by
  rw [Phase.run_append, h, Option.bind_some]

@[simp] theorem Phase.run_singleton (φ : Phase) (e : Event) : Phase.run p φ [e] = φ.event p e := by
  simp only [Phase.run]
  cases φ.event p e <;> rfl

/-- A list of events that keeps the discipline has been kept by each of its beginnings. -/
theorem Phase.run_eq_some_append {φ χ : Phase} {es fs : List Event} (h : Phase.run p φ (es ++ fs) = some χ) :
    ∃ ψ, Phase.run p φ es = some ψ ∧ Phase.run p ψ fs = some χ :=
  Option.bind_eq_some_iff.mp ((Phase.run_append φ es fs).symm.trans h)

/-- A transaction that is over leaves room for a `RET`. -/
theorem Phase.event_ret {φ : Phase} (h : φ.settled = true) (r : Result) : φ.event p (.ret r) = some .quiet := by
  cases φ <;> cases h <;> rfl

/-- What may be transmitted may also fail, and ends the transaction (rule R158). -/
theorem Phase.event_failed {φ ψ : Phase} {bytes : List Byte} (e : TransportError) (h : φ.event p (.tx bytes .ok) = some ψ) :
    φ.event p (.tx bytes (.err e)) = some .quiet := by
  cases φ with
  | quiet => cases h
  | afterOpcode => cases h
  | needOpcode =>
    cases bytes with
    | nil => cases h
    | cons b bs =>
      cases bs with
      | nil =>
        cases hb : isOpcode p b with
        | true => simp [Phase.event, hb]
        | false => simp [Phase.event, hb] at h
      | cons => cases h
  | needData =>
    cases bytes with
    | nil => cases h
    | cons => rfl
  | data =>
    cases bytes with
    | nil => cases h
    | cons => rfl

/-- The micro-program keeps the discipline from every point between transactions, and ends at one. -/
def Framing (p : Params) (ms : List Micro) : Prop :=
  ∀ φ : Phase, φ.settled = true → ∃ ψ, Phase.run p φ (okEvents ms) = some ψ ∧ ψ.settled = true

theorem Framing.append {ms ns : List Micro} (hm : Framing p ms) (hn : Framing p ns) : Framing p (ms ++ ns) := by
  intro φ hφ
  obtain ⟨ψ, hrun, hψ⟩ := hm φ hφ
  rw [okEvents_append, Phase.run_append_of hrun]
  exact hn ψ hψ

theorem Framing.nil : Framing p [] := fun φ hφ => ⟨φ, rfl, hφ⟩

theorem Framing.hardReset : Framing p hardReset := by
  intro φ hφ
  cases φ <;> cases hφ <;> exact ⟨.quiet, rfl, rfl⟩

theorem Framing.delayMs (n : Nat) : Framing p (delayMs n) := by
  intro φ hφ
  cases φ <;> cases hφ <;> exact ⟨.quiet, rfl, rfl⟩

theorem isOpcode_opByte {m : Mnemonic} (hm : inTable p m = true) : isOpcode p (opByte p m) = true :=
  List.any_eq_true.mpr ⟨m, (mem_table_iff p m).mpr hm, by simp⟩

/-- The opcode of a command is sent alone after the low drive. -/
theorem Phase.run_opcode {m : Mnemonic} (hm : inTable p m = true) {φ : Phase} (hφ : φ.settled = true) :
    Phase.run p φ [.dc false, .tx [opByte p m] .ok] = some .afterOpcode := by
  cases φ <;> cases hφ <;> simp [Phase.run, Phase.event, isOpcode_opByte hm]

theorem Framing.writeCommand {m : Mnemonic} (hm : inTable p m = true) (ps : List Byte) : Framing p (writeCommand p m ps) := by
  intro φ hφ
  obtain ⟨hevents, -⟩ := writeCommand_laws p m ps
  rw [hevents]
  cases ps with
  | nil => exact ⟨.afterOpcode, Phase.run_opcode hm hφ, rfl⟩
  | cons b bs => exact ⟨.data, (Phase.run_append_of (Phase.run_opcode hm hφ) [.dc true, .tx (b :: bs) .ok]).trans rfl, rfl⟩

/-- The three commands of the table with a data phase of whole words (rules R85, R86). -/
theorem Framing.writeRange {m : Mnemonic} (hm : inTable p m = true) (a b : Word) : Framing p (writeRange p m a b) := fun _ hφ =>
  ⟨.data, (Phase.run_append_of (Phase.run_opcode hm hφ) [.dc true, .tx (be16 a) .ok, .tx (be16 b) .ok]).trans rfl, rfl⟩

theorem Framing.writePixelData (c : Word) : Framing p (writePixelData p c) := fun _ hφ =>
  ⟨.data, (Phase.run_append_of (Phase.run_opcode (m := .ramwr) rfl hφ) [.dc true, .tx (be16 c) .ok]).trans rfl, rfl⟩

theorem Framing.configure {l : List CfgEntry} (ha : ∀ e ∈ l, inTable p e.mnemonic = true) : Framing p (configure p l) := by
  induction l with
  | nil => exact Framing.nil
  | cons e l ih =>
    rw [configure_cons]
    exact (Framing.writeCommand (ha e List.mem_cons_self) _).append (ih fun e he => ha e (List.mem_cons_of_mem _ he))

theorem inTable_polarityCommand (c : Cfg) : inTable p (polarityCommand c) = true := by
  unfold polarityCommand
  split <;> rfl

theorem Framing.initProgram {l : List CfgEntry} (ha : admissible p l = true) (c : Cfg) : Framing p (initProgram p c l) := by
  have settling {m : Mnemonic} (hm : inTable p m = true) (n : Nat) : Framing p (Machine.writeCommand p m [] ++ Machine.delayMs n) :=
    (Framing.writeCommand hm []).append (Framing.delayMs n)
  unfold Machine.initProgram
  exact ((((((Framing.hardReset.append (settling rfl _)).append (settling rfl _)).append
    (Framing.configure ((admissible_iff p l).mp ha))).append (Framing.writeCommand (inTable_polarityCommand c) [])).append
    (Framing.writeCommand rfl _)).append (Framing.writeCommand rfl _)).append (settling rfl _)

theorem Framing.pixelProgram (x y c : Word) : Framing p (pixelProgram p x y c) :=
  ((Framing.writeRange rfl x x).append (Framing.writeRange rfl y y)).append (Framing.writePixelData c)

/-- What every host operation expands to keeps the discipline (rules R179, R201, R215). -/
theorem Framing.expansion {i : Instr} {op : Operation} (hhost : i.isHostOperation = true) (hop : i.operation = some op)
    (ha : i.acceptable p = true) (c : Cfg) (l : Latches) : Framing p (expansion p c l op) := by
  cases i <;> cases hhost <;> cases hop
  case init =>
    have supplied : p.configuration.any (admissible p) = true := by
      simpa [Instr.acceptable, Instr.wellFormed, Instr.wireForm] using ha
    cases hl : p.configuration with
    | none => simp [hl] at supplied
    | some l =>
      simp only [Machine.expansion, hl, Option.getD_some]
      exact Framing.initProgram (by simpa [hl] using supplied) c
  case setOrientation o => exact Framing.writeCommand rfl _
  case setPixel x y c => exact Framing.pixelProgram _ _ _

/-- The trace so far keeps the discipline and stands between transactions. -/
def State.Framed (s : State) : Prop := ∃ φ, Phase.run s.params .quiet s.trace = some φ ∧ φ.settled = true

theorem State.Framed.record_ret {s t : State} {r : Result} (h : s.Framed) (hparams : t.params = s.params)
    (htrace : t.trace = s.trace ++ [.ret r]) : t.Framed := by
  obtain ⟨φ, hrun, hφ⟩ := h
  exact ⟨.quiet, by rw [hparams, htrace, Phase.run_append_of hrun, Phase.run_singleton, Phase.event_ret hφ], rfl⟩

/-- The trace keeps the discipline, and does so to its end with what is still to do of the operation in progress, if any. -/
def State.Framable (s : State) : Prop :=
  ∃ φ, Phase.run s.params .quiet s.trace = some φ
    ∧ (s.busy = false → φ.settled = true)
    ∧ (s.busy = true → ∃ ψ, Phase.run s.params φ (okEvents (s.mprog.drop s.upc)) = some ψ ∧ ψ.settled = true)

theorem State.Framed.framable {s : State} (h : s.Framed) (hb : s.busy = false) : s.Framable := by
  obtain ⟨φ, hrun, hφ⟩ := h
  exact ⟨φ, hrun, fun _ => hφ, fun hbusy => by simp [hb] at hbusy⟩

theorem State.Framable.framed {s : State} (h : s.Framable) (hb : s.busy = false) : s.Framed := by
  obtain ⟨φ, hrun, hφ, -⟩ := h
  exact ⟨φ, hrun, hφ hb⟩

theorem State.Framed.complete {s : State} (h : s.Framed) : s.complete.Framed := by
  obtain ⟨hparams, -, -, -, -, -, -, -, -, -, -, -, -, htrace⟩ := s.complete_keeps
  split at htrace
  · exact h.record_ret hparams htrace
  · rw [List.append_nil] at htrace
    rwa [State.Framed, hparams, htrace]

theorem State.Framed.abort {s : State} (h : s.Framed) (e : TransportError) : (s.abort e).Framed := by
  obtain ⟨hparams, -, -, -, -, -, -, -, -, -, -, -, -, htrace⟩ := s.abort_keeps e
  split at htrace
  · exact h.record_ret hparams htrace
  · rw [List.append_nil] at htrace
    rwa [State.Framed, hparams, htrace]

/-- Where a run of the operation in progress got to. -/
def Run.Framable : Run → Prop
  | .finished s => s.Framed
  | .failed _ s => s.Framed
  | .waiting s => s.Framable

theorem State.Framable.runMicros {s : State} (h : s.Framable) (hb : s.busy = true) :
    (runMicros (s.mprog.drop s.upc) s).Framable := by
  obtain ⟨φ, hφ, -, hrest⟩ := h
  obtain ⟨ψ, hψ, hsettled⟩ := hrest hb
  have spec := runMicros_spec (s.mprog.drop s.upc) s
  have kept := runMicros_kept (s.mprog.drop s.upc) s
  cases hr : Machine.runMicros (s.mprog.drop s.upc) s with
  | finished t =>
    rw [hr] at spec
    exact ⟨ψ, by rw [spec.params, spec.trace, Phase.run_append_of hφ, hψ], hsettled⟩
  | failed e t =>
    rw [hr] at spec kept
    obtain ⟨pre, bytes, post, u, part, hsplit, hu, htrace, -⟩ := spec
    rw [hsplit, okEvents_append] at hψ
    obtain ⟨χ, hpre, hpost⟩ := Phase.run_eq_some_append hψ
    obtain ⟨ω, hsent, -⟩ := Phase.run_eq_some_append (es := [.tx bytes .ok]) hpost
    rw [Phase.run_singleton] at hsent
    refine ⟨.quiet, ?_, rfl⟩
    rw [show t.params = s.params from kept.params, htrace, hu.trace, List.append_assoc, Phase.run_append_of hφ,
      Phase.run_append_of hpre, Phase.run_singleton, Phase.event_failed e hsent]
  | waiting t =>
    rw [hr] at spec kept
    obtain ⟨pre, m, post, hsplit, -, ht⟩ := spec
    rw [hsplit, okEvents_append] at hψ
    obtain ⟨χ, hpre, hpost⟩ := Phase.run_eq_some_append hψ
    have htparams : t.params = s.params := ht.params
    have htbusy : t.busy = true := kept.busy.trans hb
    have left : t.mprog.drop t.upc = m :: post := by
      rw [show t.mprog = s.mprog from kept.mprog, ht.upc, ← List.drop_drop, hsplit, List.drop_left]
    refine ⟨χ, by rw [htparams, ht.trace, Phase.run_append_of hφ, hpre], fun hidle => ?_, fun _ => ⟨ψ, ?_, hsettled⟩⟩
    · simp [htbusy] at hidle
    · rw [htparams, left, hpost]

/-- An operation that is accepted between transactions, and keeps the discipline itself, may go on. -/
theorem State.Framed.accept {s t : State} (h : s.Framed) (hparams : t.params = s.params) (htrace : t.trace = s.trace)
    (hbusy : t.busy = true) (hprogram : Framing s.params (t.mprog.drop t.upc)) : t.Framable := by
  obtain ⟨φ, hrun, hφ⟩ := h
  refine ⟨φ, by rw [hparams, htrace, hrun], fun hidle => by simp [hbusy] at hidle, fun _ => ?_⟩
  rw [hparams]
  exact hprogram φ hφ

theorem State.Framed.drawPixels (ps : List Pixel) {s : State} (h : s.Framed) : (drawPixels ps s).Framable := by
  induction ps generalizing s with
  | nil => exact State.Framed.framable (h.record_ret rfl rfl) rfl
  | cons q ps ih =>
    have accepted : (s.acceptDrawn q ps).Framable := h.accept rfl rfl rfl (Framing.pixelProgram q.x q.y q.color)
    have run := accepted.runMicros rfl
    rw [drawPixels_cons]
    change (Machine.runMicros (Machine.pixelProgram s.params q.x q.y q.color) (s.acceptDrawn q ps)).Framable at run
    generalize Machine.runMicros _ (s.acceptDrawn q ps) = r at run
    cases r with
    | finished t => exact ih run
    | failed e t => exact State.Framed.framable (State.Framed.abort run e) (t.abort_busy e)
    | waiting t => exact run

theorem State.Framable.resume {s : State} (h : s.Framable) (hb : s.busy = true) : s.resume.Framable := by
  have run := h.runMicros hb
  unfold State.resume
  generalize Machine.runMicros _ s = r at run
  cases r with
  | finished t =>
    have done : t.Framed := run
    cases hd : t.drawing with
    | none => rw [Run.settle_finished hd]; exact done.complete.framable t.complete_busy
    | some ps => rw [Run.settle_drawing hd]; exact State.Framed.drawPixels ps done
  | failed e t => exact State.Framed.framable (State.Framed.abort run e) (t.abort_busy e)
  | waiting t => exact run

theorem State.Framed.exec {s t : State} {i : Instr} (h : s.Framed) (hhost : i.isHostOperation = true) (hx : exec i s = .next t) :
    t.Framable := by
  obtain ⟨r, g, rfl⟩ | ⟨ps, rfl, -, rfl⟩ | ⟨op, hop, -, ha, rfl⟩ := exec_cases hx
  · cases hx
    exact State.Framed.framable ⟨.quiet, rfl, rfl⟩ rfl
  · exact h.drawPixels ps
  · refine State.Framable.resume (s := (s.latchFor i).accept op) (h.accept rfl rfl rfl ?_) rfl
    exact Framing.expansion hhost hop ha _ _

/-- Settles O60: what a run performs is a beginning of what is still to do, and every host operation's micro-program keeps the
discipline. -/
theorem everyStepKeepsFraming : Obligations.EveryStepKeepsFraming := by
  rintro s t ⟨hhost, hframable⟩ hstep
  have hframable : s.Framable := hframable
  have next : t.Framable := by
    obtain ⟨hb, rfl⟩ | ⟨-, -, rfl⟩ | ⟨hb, i, rest, hr, hx⟩ := step_cases hstep
    · exact hframable.resume hb
    · exact hframable
    · have hi : i.isHostOperation = true := List.all_eq_true.mp hhost i (by simp [hr])
      exact State.Framed.exec (s := { s with requests := rest }) (hframable.framed hb) hi hx
  obtain ⟨-, hrequests, -⟩ := step_configuration_fixed hstep
  have requests_host : t.requests.all Instr.isHostOperation = true := by
    rw [hrequests]
    split
    · exact hhost
    · exact List.all_eq_true.mpr fun i hi => List.all_eq_true.mp hhost i (List.mem_of_mem_tail hi)
  refine ⟨⟨requests_host, next⟩, fun hidle => ?_⟩
  obtain ⟨φ, hrun, hφ⟩ := next.framed hidle
  rw [framed, hrun]
  exact hφ

end Sys2Proof.Machine
end

section
/-! PROOFS. Instructions of the wire and the micro layer, each run on its own (rules R81 to R86, R111 to R138, R151 to R157; log entries
11, 12): what completes, and what a failed transmission leaves. -/

namespace Sys2Proof.Machine

open Sys2Proof

/-- The operation `op`, with the micro-program `ms`, was accepted in `s` and has ended in `t`, all its words listed. -/
structure Performed (ms : List Micro) (s t : State) (op : Operation) (rest : List BusReply) (later : List DelayReply) : Prop where
  completed : Completed s t (okEvents ms ++ (if op.isHost then [.ret .ok] else [])) rest later
  dc : t.dc = dcAfter ms s.dc
  rst : t.rst = rstAfter ms s.rst
  latch : t.latch = s.latch
  panel : t.panel = Panel.afterOk op s.params s.cfg s.latch s.panel
  received : t.received = s.received ++ wireFrom s.dc (okEvents ms)

section

variable {s : State} {i : Instr} {op : Operation} {ms : List Micro} {rest : List BusReply} {later : List DelayReply}

/-- What an acceptable instruction does whose transmissions succeed and whose delays end. -/
theorem exec_ok (hop : i.operation = some op) (hb : s.busy = false) (ha : i.acceptable s.params = true) (hms : s.programOf i = ms)
    (hr : s.replies = List.replicate (txCount ms) .ok ++ rest) (ht : s.timer = List.replicate (delayCount ms) .returned ++ later) :
    ∃ t, exec i s = .next t ∧ Performed ms (s.latchFor i) t op rest later := by
  obtain rfl : (s.latchFor i).expand op = ms := (State.programOf_eq s hop).symm.trans hms
  obtain ⟨hdone, hdc, hrst, hlatch, -, hpanel, hreceived⟩ := (s.latchFor i).start_ok op rest later hr ht
  exact ⟨_, exec_accepted hop hb ha, hdone, hdc, hrst, hlatch, hpanel, hreceived⟩

/-- What an acceptable instruction does whose transmission `n` is the first to fail. -/
theorem exec_err {n : Nat} {e : TransportError} (hop : i.operation = some op) (hb : s.busy = false)
    (ha : i.acceptable s.params = true) (hms : s.programOf i = ms) (hn : n < txCount ms)
    (hr : s.replies = List.replicate n .ok ++ .err e :: rest)
    (ht : s.timer = List.replicate (delayCount (beforeTx ms n)) .returned ++ later) :
    ∃ t, exec i s = .next t ∧ Failed ms (s.latchFor i) t op n e rest later := by
  obtain rfl : (s.latchFor i).expand op = ms := (State.programOf_eq s hop).symm.trans hms
  exact ⟨_, exec_accepted hop hb ha, (s.latchFor i).start_err op n e rest later hn hr ht⟩

/-- A host operation is accepted as one, and no other instruction is (rule R93). -/
theorem isHost_of_operation (hop : i.operation = some op) : op.isHost = i.isHostOperation := by
  cases i <;> cases hop <;> rfl

theorem completes (hop : i.operation = some op) (hb : s.busy = false) (ha : i.acceptable s.params = true)
    (hhost : i.isHostOperation = false) (hl : i.latched s.latch = s.latch) (hms : s.programOf i = ms)
    (hr : s.replies = List.replicate (txCount ms) .ok ++ rest) (ht : s.timer = List.replicate (delayCount ms) .returned ++ later) :
    CompletesWith s i (okEvents ms) (dcAfter ms s.dc) (rstAfter ms s.rst) rest later := by
  obtain ⟨t, hx, done⟩ := exec_ok hop hb ha hms hr ht
  have completed := done.completed
  simp only [isHost_of_operation hop, hhost, Bool.false_eq_true, if_false, List.append_nil] at completed
  exact ⟨t, hx, completed, done.dc, done.rst, done.latch.trans hl⟩

theorem fails {n : Nat} {e : TransportError} (hop : i.operation = some op) (hb : s.busy = false)
    (ha : i.acceptable s.params = true) (hhost : i.isHostOperation = false) (hms : s.programOf i = ms) (hn : n < txCount ms)
    (hrst : rstAfter (beforeTx ms n) s.rst = s.rst) (hr : s.replies = List.replicate n .ok ++ .err e :: rest)
    (ht : s.timer = List.replicate (delayCount (beforeTx ms n)) .returned ++ later) :
    FailsWith s i (errEvents ms n e) (dcAfter (beforeTx ms n) s.dc) rest later := by
  obtain ⟨t, hx, failed⟩ := exec_err hop hb ha hms hn hr ht
  have trace := failed.trace
  simp only [isHost_of_operation hop, hhost, Bool.false_eq_true, if_false, List.append_nil] at trace
  exact ⟨t, hx, failed.busy, trace, failed.dc, failed.rst.trans hrst, failed.cfg, failed.replies, failed.timer⟩

/-- An instruction that is one WRITE_COMMAND (rules R81, R151). -/
theorem completes_command {m : Mnemonic} {ps : List Byte} {b : Byte} (hop : i.operation = some (.command m ps)) (hb : s.busy = false)
    (ha : i.acceptable s.params = true) (hl : i.latched s.latch = s.latch) (hbyte : opByte s.params m = b)
    (hr : s.replies = List.replicate (commandTx ps) .ok ++ rest) :
    CompletesWith s i (commandEvents b ps) (if ps.isEmpty then .low else .high) s.rst rest s.timer := by
  obtain ⟨hevents, htx, hdc, hrst, -⟩ := writeCommand_laws s.params m ps
  have hms : s.programOf i = writeCommand s.params m ps := State.programOf_eq s hop
  have done := completes hop hb ha (isHost_of_operation hop).symm hl hms (htx.symm ▸ hr) (later := s.timer) (by simp)
  rwa [hevents, hdc, hrst, hbyte] at done

/-- A wire command that is one WRITE_COMMAND, its opcode in the table with the byte `b`. -/
theorem completes_wire {m : Mnemonic} {ps : List Byte} {b : Byte} (hform : i.wireForm = some (m, ps))
    (hop : i.operation = some (.command m ps)) (hb : s.busy = false) (hl : i.latched s.latch = s.latch) (hopv : opv s.params m = some b)
    (hr : s.replies = List.replicate (commandTx ps) .ok ++ rest) :
    CompletesWith s i (commandEvents b ps) (if ps.isEmpty then .low else .high) s.rst rest s.timer := by
  obtain ⟨hbyte, hin⟩ := opByte_of_opv hopv
  obtain ⟨-, hgate, -⟩ := Instr.gate_of_wireForm hform s.params
  exact completes_command hop hb (hgate.trans hin) hl hbyte hr

end

/-- Settles O3: the command's micro-program is the opcode and the delay. -/
theorem settlingCommandsComplete : Obligations.SettlingCommandsComplete := fun _ _ _ hb hr ht =>
  ⟨completes (i := .swreset) rfl hb rfl rfl rfl rfl hr ht, completes (i := .slpout) rfl hb rfl rfl rfl rfl hr ht,
    completes (i := .dispon) rfl hb rfl rfl rfl rfl hr ht⟩

/-- Settles O4. -/
theorem polarityCommandsComplete : Obligations.PolarityCommandsComplete := fun _ _ hb hr =>
  ⟨completes_wire (i := .invoff) rfl rfl hb rfl rfl hr, completes_wire (i := .invon) rfl rfl hb rfl rfl hr⟩

/-- Settles O5. -/
theorem unissuedCommonCommandsComplete : Obligations.UnissuedCommonCommandsComplete := fun _ ps _ hb hr =>
  ⟨completes_wire (i := .slpin ps) rfl rfl hb rfl rfl hr, completes_wire (i := .ptlon ps) rfl rfl hb rfl rfl hr,
    completes_wire (i := .noron ps) rfl rfl hb rfl rfl hr, completes_wire (i := .dispoff ps) rfl rfl hb rfl rfl hr,
    completes_wire (i := .ramrd ps) rfl rfl hb rfl rfl hr⟩

/-- Settles O6: on GEN_OLDER the table's byte is the one that the configuration gives. -/
theorem olderCommandsComplete : Obligations.OlderCommandsComplete := by
  intro s ps rest hb hg hr
  have member (o : Option Byte) : s.params.older o = o := by simp [Params.older, hg]
  have complete {i : Instr} {m : Mnemonic} {o : Option Byte} {b : Byte} (ho : o = some b) (hopv : opv s.params m = s.params.older o)
      (hform : i.wireForm = some (m, ps)) (hop : i.operation = some (.command m ps)) (hl : i.latched s.latch = s.latch) :=
    completes_wire hform hop hb hl (hopv.trans ((member o).trans ho)) hr
  exact ⟨fun _ h => complete (i := .frmctr1 ps) h rfl rfl rfl rfl, fun _ h => complete (i := .frmctr2 ps) h rfl rfl rfl rfl,
    fun _ h => complete (i := .frmctr3 ps) h rfl rfl rfl rfl, fun _ h => complete (i := .invctr ps) h rfl rfl rfl rfl,
    fun _ h => complete (i := .pwctr1 ps) h rfl rfl rfl rfl, fun _ h => complete (i := .pwctr2 ps) h rfl rfl rfl rfl,
    fun _ h => complete (i := .pwctr3 ps) h rfl rfl rfl rfl, fun _ h => complete (i := .pwctr4 ps) h rfl rfl rfl rfl,
    fun _ h => complete (i := .pwctr5 ps) h rfl rfl rfl rfl, fun _ h => complete (i := .vmctr1 ps) h rfl rfl rfl rfl,
    fun _ h => complete (i := .gmctrp1 ps) h rfl rfl rfl rfl, fun _ h => complete (i := .gmctrn1 ps) h rfl rfl rfl rfl⟩

/-- Settles O8. -/
theorem rangeCommandsComplete : Obligations.RangeCommandsComplete := fun _ a b _ hb hr =>
  ⟨completes (i := .caset a b) rfl hb rfl rfl rfl rfl hr rfl, completes (i := .raset a b) rfl hb rfl rfl rfl rfl hr rfl⟩

/-- Settles O9. -/
theorem parameterCommandsComplete : Obligations.ParameterCommandsComplete := fun _ c q _ hb hr =>
  ⟨completes (i := .ramwr c) rfl hb rfl rfl rfl rfl hr rfl, completes_wire (i := .madctl q) rfl rfl hb rfl rfl hr,
    completes_wire (i := .colmod q) rfl rfl hb rfl rfl hr⟩

/-- Settles O11. -/
theorem writeCommandCompletes : Obligations.WriteCommandCompletes := fun _ m ps _ hb hm hr =>
  completes_command (i := .writeCommand m ps) rfl hb (by simp [Instr.acceptable, Instr.wellFormed, Instr.wireForm, hm]) rfl rfl hr

/-- Settles O13: the one drive, whose completion the panel does not see. -/
theorem startDataCompletes : Obligations.StartDataCompletes := by
  intro s hb
  refine ⟨completes (i := .startData) rfl hb rfl rfl rfl rfl rfl rfl, fun t hx => ?_⟩
  obtain ⟨u, hu, done⟩ := exec_ok (i := .startData) (s := s) (rest := s.replies) (later := s.timer) rfl hb rfl rfl rfl rfl
  obtain rfl : u = t := Host.Outcome.next.inj (hu.symm.trans hx)
  exact ⟨done.panel, done.received.trans (List.append_nil _)⟩

/-- Settles O14. -/
theorem writeDataCompletes : Obligations.WriteDataCompletes := fun _ bytes _ hb hne hr =>
  completes (i := .writeData bytes) rfl hb (by simpa [Instr.acceptable, Instr.wellFormed, Instr.wireForm] using hne) rfl rfl rfl hr rfl

theorem toNat_hi (v : Word) : (hi v).toNat = v.toNat / 256 := by
  have := v.isLt
  simp [hi, Nat.shiftRight_eq_div_pow]
  omega

theorem toNat_lo (v : Word) : (lo v).toNat = v.toNat % 256 := by
  have low_byte : v.toNat &&& 255 = v.toNat % 256 := Nat.and_two_pow_sub_one_eq_mod v.toNat 8
  simp only [lo, BitVec.toNat_setWidth, BitVec.toNat_and]
  change (v.toNat &&& 255) % 2 ^ 8 = v.toNat % 256
  rw [low_byte]
  omega

/-- Settles O16: the two bytes are `hi` and `lo`. -/
theorem writeWordCompletes : Obligations.WriteWordCompletes := by
  refine fun s v rest hb => ⟨hi v, lo v, toNat_hi v, toNat_lo v, fun hr => ?_, fun e hr => ?_⟩
  · exact completes (i := .writeWord v) rfl hb rfl rfl rfl rfl hr rfl
  · obtain ⟨t, hx, hbusy, htrace, hdc, -, -, hreplies, -⟩ :=
      fails (i := .writeWord v) (n := 0) (e := e) rfl hb rfl rfl rfl Nat.one_pos rfl hr (later := s.timer) rfl
    exact ⟨t, hx, hbusy, htrace, hdc, hreplies⟩

/-- Settles O17. -/
theorem hardResetCompletes : Obligations.HardResetCompletes := fun _ hb =>
  completes (i := .hardReset) rfl hb rfl rfl rfl rfl rfl rfl

/-- Settles O18: a delay that is not over is held before its one micro-event, which the next step performs. -/
theorem delayCompletes : Obligations.DelayCompletes := by
  refine fun s n later hb => ⟨fun ht => ⟨completes (i := .delayMs n) rfl hb rfl rfl rfl rfl rfl ht, fun t hx => ?_⟩, fun ht => ?_⟩
  · obtain ⟨u, hu, done⟩ := exec_ok (i := .delayMs n) (rest := s.replies) rfl hb rfl rfl rfl ht
    obtain rfl : u = t := Host.Outcome.next.inj (hu.symm.trans hx)
    obtain ⟨-, htrace, -⟩ := done.completed
    exact ⟨by rw [htrace]; exact minMillis_append _ _, done.panel⟩
  · have unanswered : UnansweredAt (s.accept (.delayMs n)) [] (.delay n) s.replies (.returned :: later) :=
      .inr ⟨⟨n, rfl⟩, rfl, ht⟩
    obtain ⟨held, kept, -⟩ := State.resume_held (post := []) rfl rfl unanswered
    refine ⟨(s.accept (.delayMs n)).resume, (s.accept (.delayMs n)).resume.resume, exec_accepted (i := .delayMs n) rfl hb rfl, ?_⟩
    generalize (s.accept (.delayMs n)).resume = t at held kept
    obtain ⟨hbusy, htrace, hupc, hreplies, htimer, hparams, hcfg, hrequests, hdraws⟩ := held
    have left : t.mprog.drop t.upc = [.delay n] := by rw [kept.mprog, hupc]; rfl
    obtain ⟨done, -⟩ := State.resume_ok kept.drawing s.replies later (by rwa [left]) (by rwa [left])
    rw [left, kept.op] at done
    obtain ⟨hidle, hmore, hrest, hlater, hparams', hcfg', hrequests', hdraws'⟩ := done
    have htrace : t.trace = s.trace := htrace.trans (List.append_nil _)
    exact ⟨hbusy, htrace, htimer, step_busy hbusy, hidle, htrace ▸ hmore, hrest, hlater, hparams'.trans hparams, hcfg'.trans hcfg,
      hrequests'.trans hrequests, hdraws'.trans hdraws⟩

/-- Every wire command begins with its opcode, the selector low (rule R81). -/
theorem programOf_opcode {i : Instr} {m : Mnemonic} {ps : List Byte} (h : i.wireForm = some (m, ps)) (s : State) :
    ∃ tail, s.programOf i = .dcSet false :: .tx [opByte s.params m] :: tail := by
  cases i <;> cases h <;> exact ⟨_, rfl⟩

theorem writeCommand_of_ne_nil (p : Params) (m : Mnemonic) {ps : List Byte} (h : ps ≠ []) :
    writeCommand p m ps = [.dcSet false, .tx [opByte p m], .dcSet true, .tx ps] := by
  cases ps with
  | nil => exact absurd rfl h
  | cons b bs => rfl

/-- Every wire command with parameters, but the two whose parameters are two words, sends them all in one transmission (rule R81). -/
theorem programOf_parameters {i : Instr} {m : Mnemonic} {ps : List Byte} (h : i.wireForm = some (m, ps)) (hne : ps ≠ [])
    (hc : m ≠ .caset) (hr : m ≠ .raset) (s : State) :
    s.programOf i = [.dcSet false, .tx [opByte s.params m], .dcSet true, .tx ps] := by
  cases i <;> cases h
  case caset | raset => contradiction
  case swreset | slpout | invoff | invon | dispon => contradiction
  all_goals exact writeCommand_of_ne_nil _ _ hne

/-- Settles O12, each failure point by the beginning of its micro-program. -/
theorem wireAndMicroFailure : Obligations.WireAndMicroFailure := by
  intro s e rest hb
  have command_ok {m : Mnemonic} (ps : List Byte) (hm : inTable s.params m = true) : (Instr.writeCommand m ps).acceptable s.params = true := by
    simp [Instr.acceptable, Instr.wellFormed, Instr.wireForm, hm]
  have wire_not_host {i : Instr} {m : Mnemonic} {ps : List Byte} (h : i.wireForm = some (m, ps)) : i.isHostOperation = false := by
    cases i <;> cases h <;> rfl
  refine ⟨fun hr => ⟨fun i m ps h hm => ?_, fun m ps hm => ?_, fun bytes hne => ?_⟩,
    fun hr => ⟨fun i m ps h hm hne hc hra => ?_, fun m ps hm hne => ?_, fun a b => ⟨?_, ?_⟩⟩, fun hr a b => ⟨?_, ?_⟩,
    fun x0 y0 x1 y1 n hn hr => ?_⟩
  · obtain ⟨⟨op, hop⟩, hgate, -⟩ := Instr.gate_of_wireForm h s.params
    obtain ⟨tail, hms⟩ := programOf_opcode h s
    exact fails (n := 0) hop hb (hgate.trans hm) (wire_not_host h) hms (Nat.succ_pos _) rfl hr rfl
  · exact fails (i := .writeCommand m ps) (n := 0) rfl hb (command_ok ps hm) rfl rfl (Nat.succ_pos _) rfl hr rfl
  · exact fails (i := .writeData bytes) (n := 0) rfl hb (by simpa [Instr.acceptable, Instr.wellFormed, Instr.wireForm] using hne) rfl rfl
      Nat.one_pos rfl hr rfl
  · obtain ⟨⟨op, hop⟩, hgate, -⟩ := Instr.gate_of_wireForm h s.params
    exact fails (n := 1) hop hb (hgate.trans hm) (wire_not_host h) (programOf_parameters h hne hc hra s) Nat.one_lt_two rfl hr rfl
  · exact fails (i := .writeCommand m ps) (n := 1) rfl hb (command_ok ps hm) rfl (writeCommand_of_ne_nil _ m hne) Nat.one_lt_two rfl hr rfl
  · exact fails (i := .caset a b) (n := 1) rfl hb rfl rfl rfl (by decide : 1 < 3) rfl hr rfl
  · exact fails (i := .raset a b) (n := 1) rfl hb rfl rfl rfl (by decide : 1 < 3) rfl hr rfl
  · exact fails (i := .caset a b) (n := 2) rfl hb rfl rfl rfl (by decide : 2 < 3) rfl hr rfl
  · exact fails (i := .raset a b) (n := 2) rfl hb rfl rfl rfl (by decide : 2 < 3) rfl hr rfl
  · have level : dcAfter (beforeTx (addressWindow s.params x0 y0 x1 y1) n) s.dc = if n = 0 ∨ n = 3 then .low else .high := by
      interval_cases n <;> rfl
    have reset : rstAfter (beforeTx (addressWindow s.params x0 y0 x1 y1) n) s.rst = s.rst := by interval_cases n <;> rfl
    have delays : delayCount (beforeTx (addressWindow s.params x0 y0 x1 y1) n) = 0 := by interval_cases n <;> rfl
    exact level ▸ fails (i := .setAddressWindow x0 y0 x1 y1) rfl hb rfl rfl rfl hn reset hr (by rw [delays]; rfl)

end Sys2Proof.Machine
end

section
/-! PROOFS. INIT (rules R171 to R188): its events and levels, its counts, its first events whatever the bus answers, and its state
machine. -/

namespace Sys2Proof.Machine

open Sys2Proof

theorem okEvents_writeCommand (p : Params) (m : Mnemonic) (ps : List Byte) :
    okEvents (writeCommand p m ps) = commandEvents (opByte p m) ps := by
  obtain ⟨hevents, -⟩ := writeCommand_laws p m ps
  exact hevents

theorem txCount_writeCommand (p : Params) (m : Mnemonic) (ps : List Byte) : txCount (writeCommand p m ps) = commandTx ps := by
  obtain ⟨-, htx, -⟩ := writeCommand_laws p m ps
  exact htx

theorem okEvents_configure (p : Params) (l : List CfgEntry) :
    okEvents (configure p l) = l.flatMap fun e => commandEvents (opByte p e.mnemonic) e.params := by
  induction l with
  | nil => rfl
  | cons e l ih => rw [configure_cons, okEvents_append, okEvents_writeCommand, ih, List.flatMap_cons]

theorem txCount_configure (p : Params) (l : List CfgEntry) : txCount (configure p l) = (l.map fun e => commandTx e.params).sum := by
  induction l with
  | nil => rfl
  | cons e l ih => rw [configure_cons, txCount_append, txCount_writeCommand, ih, List.map_cons, List.sum_cons]

/-- The micro-events of INIT before step 4 (rules R172 to R174). -/
def initOpening (p : Params) : List Micro := hardReset ++ softwareReset p ++ sleepOut p

/-- The micro-events of INIT after step 4 (rules R181 to R184). -/
def initClosing (p : Params) (c : Cfg) : List Micro :=
  writeCommand p (polarityCommand c) [] ++ writeCommand p .madctl [initMadctl p c] ++ writeCommand p .colmod [p.colmodParam] ++ displayOn p

theorem initProgram_eq (p : Params) (c : Cfg) (l : List CfgEntry) :
    initProgram p c l = initOpening p ++ (configure p l ++ initClosing p c) := by
  simp only [initProgram, initOpening, initClosing, List.append_assoc]

theorem txCount_initProgram (p : Params) (c : Cfg) (l : List CfgEntry) :
    txCount (initProgram p c l) = 8 + (l.map fun e => commandTx e.params).sum := by
  rw [initProgram_eq, txCount_append, txCount_append, txCount_configure]
  change 2 + (_ + 6) = _
  omega

/-- INIT ends with DISPON, which leaves the selector low (rule R184). -/
theorem dcAfter_initProgram (p : Params) (c : Cfg) (l : List CfgEntry) (d : Level) : dcAfter (initProgram p c l) d = .low := by
  rw [initProgram_eq, dcAfter_append, dcAfter_append]
  rfl

/-- What INIT accepts, by its `CFG`. -/
theorem programOf_init {s : State} {l : List CfgEntry} (hl : s.params.configuration = some l) :
    s.programOf .init = initProgram s.params s.cfg l := State.expand_init hl

theorem acceptable_init {p : Params} {l : List CfgEntry} (hl : p.configuration = some l) (ha : admissible p l = true) :
    Instr.init.acceptable p = true := by
  simp [Instr.acceptable, Instr.wellFormed, Instr.wireForm, hl, ha]

theorem Panel.initialised_cfg (p : Params) (c : Cfg) : (Panel.initialised p c).cfg = .ok := by
  unfold Panel.initialised
  split <;> rfl

/-- The parameter of step 6 (rules R88, R182). -/
theorem initMadctl_eq (p : Params) (c : Cfg) : initMadctl p c = p.madctlInitBase ||| (if c.rgb then 0x00 else 0x08) := rfl

theorem okEvents_initOpening (p : Params) :
    okEvents (initOpening p)
      = [.rst true, .rst false, .rst true, .dc false, .tx [0x01] .ok, .delay p.tSwreset, .dc false, .tx [0x11] .ok, .delay p.tSlpout] := rfl

theorem okEvents_initClosing (p : Params) (c : Cfg) :
    okEvents (initClosing p c)
      = [.dc false, .tx [opByte p (if c.inv then .invon else .invoff)] .ok,
         .dc false, .tx [0x36] .ok, .dc true, .tx [p.madctlInitBase ||| (if c.rgb then 0x00 else 0x08)] .ok,
         .dc false, .tx [0x3A] .ok, .dc true, .tx [p.colmodParam] .ok,
         .dc false, .tx [0x29] .ok, .delay p.tDispon] := rfl

/-- Settles O20. -/
theorem initCompletes : Obligations.InitCompletes := by
  intro s l rest later hb hl hin hr ht
  obtain ⟨t, hx, done⟩ := exec_ok rfl hb (acceptable_init hl ((admissible_iff _ _).mpr hin)) (programOf_init hl)
    (by rwa [txCount_initProgram]) (by rwa [delayCount_initProgram])
  refine ⟨t, hx, ?_, done.rst.trans (rstAfter_initProgram ..), done.dc.trans (dcAfter_initProgram ..), done.latch, ?_⟩
  · have completed := done.completed
    rw [initProgram_eq, okEvents_append, okEvents_append, okEvents_configure, okEvents_initOpening, okEvents_initClosing] at completed
    simpa [Completed, Operation.isHost] using completed
  · exact (congrArg Panel.cfg done.panel).trans (Panel.initialised_cfg ..)

/-- The counts over step 4 of INIT, where every entry counts `a`, and one with parameters `b` more (rule R186). -/
theorem countEvents_configure {f : Event → Bool} {a b : Nat}
    (h : ∀ op ps, countEvents f (commandEvents op ps) = a + if ps.isEmpty then 0 else b) (p : Params) (l : List CfgEntry) :
    countEvents f (okEvents (configure p l)) = a * l.length + b * (l.filter fun e => !e.params.isEmpty).length := by
  induction l with
  | nil => rfl
  | cons e l ih =>
    rw [configure_cons, okEvents_append, countEvents_append, okEvents_writeCommand, h, ih, List.length_cons, List.filter_cons]
    cases e.params.isEmpty <;> simp [Nat.mul_add] <;> omega

/-- A count over the whole of INIT. -/
theorem countEvents_initProgram {f : Event → Bool} {a b : Nat}
    (h : ∀ op ps, countEvents f (commandEvents op ps) = a + if ps.isEmpty then 0 else b) (p : Params) (c : Cfg) (l : List CfgEntry) :
    countEvents f (okEvents (initProgram p c l))
      = countEvents f (okEvents (initOpening p)) + (a * l.length + b * (l.filter fun e => !e.params.isEmpty).length)
        + countEvents f (okEvents (initClosing p c)) := by
  rw [initProgram_eq, okEvents_append, okEvents_append, countEvents_append, countEvents_append, countEvents_configure h,
    ← Nat.add_assoc]

theorem minMillis_configure (p : Params) (l : List CfgEntry) : minMillis (okEvents (configure p l)) = 0 := by
  induction l with
  | nil => rfl
  | cons e l ih =>
    rw [configure_cons, okEvents_append, minMillis_append, okEvents_writeCommand, ih]
    cases e.params <;> rfl

/-- The wire view of step 4 of INIT: each opcode with the selector low, its parameters with the selector high. -/
def configureWire (p : Params) (l : List CfgEntry) : List WirePair :=
  l.flatMap fun e => (.low, opByte p e.mnemonic) :: e.params.map fun b => (.high, b)

theorem wireFrom_configure (p : Params) (l : List CfgEntry) (d : Level) :
    wireFrom d (okEvents (configure p l)) = configureWire p l := by
  induction l generalizing d with
  | nil => rfl
  | cons e l ih =>
    obtain ⟨-, -, -, -, hwire⟩ := writeCommand_laws p e.mnemonic e.params
    rw [configure_cons, wireFrom_okEvents_append, hwire, ih]
    rfl

theorem wireView_initProgram (p : Params) (c : Cfg) (l : List CfgEntry) :
    wireView (okEvents (initProgram p c l))
      = [(.low, 0x01), (.low, 0x11)] ++ configureWire p l
        ++ [(.low, opByte p (polarityCommand c)), (.low, 0x36), (.high, initMadctl p c), (.low, 0x3A), (.high, p.colmodParam),
            (.low, 0x29)] := by
  rw [wireView, initProgram_eq, wireFrom_okEvents_append, wireFrom_okEvents_append, wireFrom_configure, List.append_assoc]
  rfl

theorem length_configureWire (p : Params) (l : List CfgEntry) :
    (configureWire p l).length = l.length + (l.map fun e => e.params.length).sum
      ∧ ((configureWire p l).filter fun w => w.1 == .low).length = l.length
      ∧ ((configureWire p l).filter fun w => w.1 == .high).length = (l.map fun e => e.params.length).sum := by
  induction l with
  | nil => exact ⟨rfl, rfl, rfl⟩
  | cons e l ih =>
    obtain ⟨hall, hlow, hhigh⟩ := ih
    have split : configureWire p (e :: l) = ((.low, opByte p e.mnemonic) :: e.params.map fun b => (.high, b)) ++ configureWire p l := rfl
    refine ⟨?_, ?_, ?_⟩
    · simp [split, hall]
      omega
    · simp [split, hlow, List.filter_map, Function.comp_def]
    · simp [split, hhigh, List.filter_map, Function.comp_def]

/-- Settles O24: INIT is its opening, step 4 and its closing, and every count is the sum over the three. -/
theorem initCounts : Obligations.InitCounts := by
  intro p c l
  obtain ⟨hall, hlow, hhigh⟩ := length_configureWire p l
  have length_eq (evs : List Event) : evs.length = countEvents (fun _ => true) evs := by simp [countEvents]
  refine ⟨?_, ?_, ?_, ?_, ?_, ?_, ?_, ?_, ?_, ?_, ?_⟩
  · rw [countEvents_initProgram (a := 0) (b := 0) (by intro op ps; cases ps <;> rfl)]
    change 3 + _ + 0 = _
    omega
  · rw [countEvents_initProgram (a := 0) (b := 0) (by intro op ps; cases ps <;> rfl)]
    change 2 + _ + 1 = _
    omega
  · rw [countEvents_initProgram (a := 1) (b := 1) (by intro op ps; cases ps <;> rfl)]
    change 2 + _ + 6 = _
    omega
  · rw [countEvents_initProgram (a := 1) (b := 1) (by intro op ps; cases ps <;> rfl)]
    change 2 + _ + 6 = _
    omega
  · rw [countEvents_initProgram (a := 1) (b := 0) (by intro op ps; cases ps <;> rfl)]
    change 2 + _ + 4 = _
    omega
  · rw [countEvents_initProgram (a := 0) (b := 1) (by intro op ps; cases ps <;> rfl)]
    change 0 + _ + 2 = _
    omega
  · rw [wireView_initProgram, List.length_append, List.length_append, hall]
    change 2 + _ + 6 = _
    omega
  · rw [wireView_initProgram, List.filter_append, List.filter_append, List.length_append, List.length_append, hlow]
    change 2 + _ + 4 = _
    omega
  · rw [wireView_initProgram, List.filter_append, List.filter_append, List.length_append, List.length_append, hhigh]
    change 0 + _ + 2 = _
    omega
  · rw [length_eq, countEvents_initProgram (a := 2) (b := 2) (by intro op ps; cases ps <;> rfl)]
    change 9 + _ + 13 = _
    omega
  · rw [initProgram_eq, okEvents_append, okEvents_append, minMillis_append, minMillis_append, minMillis_configure, okEvents_initOpening,
      okEvents_initClosing]
    simp [minMillis]

/-- From the state `st` the machine walks through the micro-events `ms` and then stands in `st'` (rule R180). -/
def Walks (p : Params) (c : Cfg) (l : List CfgEntry) (st : InitState) (ms : List Micro) (st' : InitState) : Prop :=
  match ms with
  | [] => st = st'
  | m :: ms => st.event p c l = some m ∧ Walks p c l (st.next l) ms st'

theorem Walks.append {p : Params} {c : Cfg} {l : List CfgEntry} {st st' st'' : InitState} {ms ns : List Micro}
    (h : Walks p c l st ms st') (k : Walks p c l st' ns st'') : Walks p c l st (ms ++ ns) st'' := by
  induction ms generalizing st with
  | nil => obtain rfl : st = st' := h; exact k
  | cons m ms ih => exact ⟨h.1, ih h.2⟩

/-- Where a walk stands after each of its events, and at its end. -/
theorem Walks.iterate {p : Params} {c : Cfg} {l : List CfgEntry} {st st' : InitState} {ms : List Micro} (h : Walks p c l st ms st') :
    (∀ k < ms.length, ((InitState.next l)^[k] st).event p c l = ms[k]?) ∧ (InitState.next l)^[ms.length] st = st' := by
  induction ms generalizing st with
  | nil => exact ⟨nofun, h⟩
  | cons m ms ih =>
    obtain ⟨hevent, hrest⟩ := h
    obtain ⟨hsteps, hend⟩ := ih hrest
    refine ⟨fun k hk => ?_, hend⟩
    cases k with
    | zero => exact hevent
    | succ k => exact hsteps k (Nat.lt_of_succ_lt_succ hk)

theorem initStateAt_eq (l : List CfgEntry) (k : Nat) : initStateAt l k = (InitState.next l)^[k] .rstH1 := by
  induction k with
  | zero => rfl
  | succ k ih => rw [initStateAt, ih, Function.iterate_succ_apply']

theorem walks_initOpening (p : Params) (c : Cfg) (l : List CfgEntry) : Walks p c l .rstH1 (initOpening p) (beginEntry l 1) :=
  ⟨rfl, rfl, rfl, rfl, rfl, rfl, rfl, rfl, rfl, rfl⟩

/-- Step 4 from the entry after `before`. -/
theorem walks_configure (p : Params) (c : Cfg) {l : List CfgEntry} (before after : List CfgEntry) (hl : l = before ++ after) :
    Walks p c l (beginEntry l (before.length + 1)) (configure p after) .invDc := by
  induction after generalizing before with
  | nil => simp [hl, configure, Walks, beginEntry]
  | cons e after ih =>
    have here : beginEntry l (before.length + 1) = .cfgDc (before.length + 1) := by simp [hl, beginEntry]
    have entry : cfgEntry l (before.length + 1) = e := by simp [hl, cfgEntry]
    have rest := ih (before ++ [e]) (by simp [hl])
    rw [List.length_append, List.length_singleton] at rest
    rw [configure_cons, here]
    refine Walks.append ?_ rest
    cases hps : e.params with
    | nil => simp [writeCommand, Walks, InitState.event, InitState.next, entry, hps]
    | cons b bs => simp [writeCommand, Walks, InitState.event, InitState.next, entry, hps]

theorem walks_initClosing (p : Params) (c : Cfg) (l : List CfgEntry) : Walks p c l .invDc (initClosing p c) .done := by
  have polarity : InitState.invTx.event p c l = some (.tx [opByte p (polarityCommand c)]) := by
    simp only [InitState.event, polarityCommand]
    split <;> rfl
  have order : InitState.madPar.event p c l = some (.tx [initMadctl p c]) := by
    simp only [InitState.event, initMadctl_eq]
    split <;> simp
  exact ⟨rfl, polarity, rfl, rfl, rfl, order, rfl, rfl, rfl, rfl, rfl, rfl, rfl, rfl⟩

theorem walks_initProgram (p : Params) (c : Cfg) (l : List CfgEntry) : Walks p c l .rstH1 (initProgram p c l) .done := by
  rw [initProgram_eq]
  exact (walks_initOpening p c l).append ((walks_configure p c [] l rfl).append (walks_initClosing p c l))

/-- After its end the machine has no more events. -/
theorem event_iterate_done (p : Params) (c : Cfg) (l : List CfgEntry) (k : Nat) :
    ((InitState.next l)^[k] .done).event p c l = none := by
  have idle (k : Nat) : (InitState.next l)^[k] .idle = .idle := Function.iterate_fixed rfl k
  cases k with
  | zero => rfl
  | succ k => rw [Function.iterate_succ_apply, show InitState.done.next l = .idle from rfl, idle]; rfl

/-- Settles O25: the three parts of INIT are walked one after another. -/
theorem initStateMachineIsInitProgram : Obligations.InitStateMachineIsInitProgram := by
  intro p c l
  obtain ⟨hsteps, hend⟩ := (walks_initProgram p c l).iterate
  refine ⟨fun k => ?_, (initStateAt_eq l _).trans hend, fun st => ?_⟩
  · rw [initStateAt_eq]
    by_cases hk : k < (initProgram p c l).length
    · exact hsteps k hk
    · obtain ⟨j, rfl⟩ := Nat.exists_eq_add_of_le' (Nat.le_of_not_lt hk)
      rw [Function.iterate_add_apply, hend, event_iterate_done, List.getElem?_eq_none (by omega)]
  · cases st <;> simp [InitState.canFail, InitState.event]

end Sys2Proof.Machine
end

section
/-! PROOFS. What any instruction and any step leaves alone (rules R26 to R30, R40, R45): the trace only grows, and the output lines and the
latches change only where their rules say. -/

namespace Sys2Proof.Machine

open Sys2Proof

/-! ### The trace and what reached the panel -/

/-- What was done and what reached the panel in `s` is kept in `t`. -/
structure Grows (s t : State) : Prop where
  trace : s.trace <+: t.trace
  received : s.received <+: t.received

theorem Grows.trans {s t u : State} (h : Grows s t) (k : Grows t u) : Grows s u :=
  ⟨h.trace.trans k.trace, h.received.trans k.received⟩

theorem Grows.of_append {s t : State} {evs : List Event} {ws : List WirePair} (htrace : t.trace = s.trace ++ evs)
    (hreceived : t.received = s.received ++ ws) : Grows s t :=
  ⟨htrace ▸ List.prefix_append _ _, hreceived ▸ List.prefix_append _ _⟩

theorem RanTo.grows {pre : List Micro} {s t : State} (h : RanTo pre s t) : Grows s t := Grows.of_append h.trace h.received

theorem runMicros_grows (ms : List Micro) (s : State) : Grows s (runMicros ms s).state := by
  have h := runMicros_spec ms s
  cases hr : runMicros ms s with
  | finished t =>
    rw [hr] at h
    exact RanTo.grows h
  | failed e t =>
    rw [hr] at h
    obtain ⟨pre, bytes, post, u, part, -, hu, htrace, -, -, -, -, -, hreceived⟩ := h
    exact hu.grows.trans (Grows.of_append htrace hreceived)
  | waiting t =>
    rw [hr] at h
    obtain ⟨pre, m, post, -, -, ht⟩ := h
    exact ht.grows

theorem State.complete_grows (s : State) : Grows s s.complete := by
  obtain ⟨-, -, -, -, -, -, -, hreceived, -, -, -, -, -, htrace⟩ := s.complete_keeps
  exact Grows.of_append htrace (hreceived.trans (List.append_nil _).symm)

theorem State.abort_grows (s : State) (e : TransportError) : Grows s (s.abort e) := by
  obtain ⟨-, -, -, -, -, -, -, hreceived, -, -, -, -, -, htrace⟩ := s.abort_keeps e
  exact Grows.of_append htrace (hreceived.trans (List.append_nil _).symm)

theorem State.returnToHost_grows (s : State) (r : Result) : Grows s (s.returnToHost r) :=
  Grows.of_append (evs := [.ret r]) rfl (List.append_nil _).symm

theorem Grows.of_drawn {s : State} {q : Pixel} {ps : List Pixel} {ms : List Micro} {r : Run}
    (h : runMicros ms (s.acceptDrawn q ps) = r) : Grows s r.state := by
  subst h
  have run := runMicros_grows ms (s.acceptDrawn q ps)
  exact ⟨run.trace, run.received⟩

theorem drawPixels_grows (ps : List Pixel) (s : State) : Grows s (drawPixels ps s) := by
  apply drawPixels_induct (R := Grows)
  case hend => exact fun s => s.returnToHost_grows .ok
  case hpixel =>
    intro s q ps t h u rest
    exact (Grows.of_drawn h).trans ⟨rest.trace, rest.received⟩
  case hfail =>
    intro s q ps e t h
    exact (Grows.of_drawn h).trans (t.abort_grows e)
  case hwait =>
    intro s q ps t h
    exact Grows.of_drawn h

theorem Run.settle_grows (r : Run) : Grows r.state r.settle := by
  cases r with
  | finished s =>
    cases hd : s.drawing with
    | none => rw [Run.settle_finished hd]; exact s.complete_grows
    | some ps =>
      rw [Run.settle_drawing hd]
      have rest := drawPixels_grows ps s.panelAfterOk
      exact ⟨rest.trace, rest.received⟩
  | failed e s => exact s.abort_grows e
  | waiting s => exact ⟨List.prefix_rfl, List.prefix_rfl⟩

theorem State.resume_grows (s : State) : Grows s s.resume := (runMicros_grows _ s).trans (Run.settle_grows _)

theorem exec_grows {i : Instr} {s t : State} (hi : ∀ r g, i ≠ .new r g) (h : exec i s = .next t) : Grows s t := by
  obtain ⟨r, g, rfl⟩ | ⟨ps, rfl, -, rfl⟩ | ⟨op, -, -, -, rfl⟩ := exec_cases h
  · exact absurd rfl (hi r g)
  · exact drawPixels_grows ps s
  · have started := ((s.latchFor i).accept op).resume_grows
    exact ⟨started.trace, started.received⟩

/-- Settles O46. -/
theorem traceOnlyGrows : Obligations.TraceOnlyGrows := by
  intro s t hstep hnew
  have grown : Grows s t := by
    obtain ⟨-, rfl⟩ | ⟨-, -, rfl⟩ | ⟨hb, i, rest, hr, hx⟩ := step_cases hstep
    · exact s.resume_grows
    · exact ⟨List.prefix_rfl, List.prefix_rfl⟩
    · have hi : ∀ r g, i ≠ .new r g := by simpa [hr] using hnew hb
      have run := exec_grows hi hx
      exact ⟨run.trace, run.received⟩
  exact ⟨grown.trace, grown.received⟩

/-! ### The output lines -/

/-- The level is one to which a line was driven (rule R41). -/
def Level.Driven (d : Level) : Prop := d = .low ∨ d = .high

theorem driven_level (b : Bool) : Level.Driven (level b) := by cases b <;> simp [Level.Driven, level]

/-- A selector that was ever driven stays so; before, a micro-program drives it or not. -/
theorem dcAfter_eq_or_driven (ms : List Micro) (d : Level) : dcAfter ms d = d ∨ Level.Driven (dcAfter ms d) := by
  induction ms generalizing d with
  | nil => exact .inl rfl
  | cons m ms ih =>
    cases m with
    | dcSet b => exact .inr ((ih (level b)).elim (fun h => by rw [dcAfter, h]; exact driven_level b) id)
    | rstSet b => exact ih d
    | tx bytes => exact ih d
    | delay n => exact ih d

theorem dcAfter_append_driven {ms : List Micro} {d : Level} (h : Level.Driven (dcAfter ms d)) (ns : List Micro) :
    Level.Driven (dcAfter (ms ++ ns) d) := by
  rw [dcAfter_append]
  exact (dcAfter_eq_or_driven ns _).elim (fun hsame => hsame ▸ h) id

theorem dcAfter_of_no_drive {ms : List Micro} (h : ∀ b, Micro.dcSet b ∉ ms) (d : Level) : dcAfter ms d = d := by
  induction ms with
  | nil => rfl
  | cons m ms ih =>
    have hms : dcAfter ms d = d := ih fun b hb => h b (List.mem_cons_of_mem m hb)
    cases m with
    | dcSet b => exact absurd List.mem_cons_self (h b)
    | rstSet b => exact hms
    | tx bytes => exact hms
    | delay n => exact hms

/-- The micro-events `pre` of `ms` were performed between `s` and `t`: all, or those before one that waits for a word. -/
structure Reached (ms pre : List Micro) (s t : State) : Prop where
  within : pre <+: ms
  stop : pre = ms ∨ ∃ m, ms[pre.length]? = some m ∧ m.isAnswered = true
  dc : t.dc = dcAfter pre s.dc
  rst : t.rst = rstAfter pre s.rst
  trace : ∃ more, t.trace = s.trace ++ okEvents pre ++ more

/-- Drives at the beginning of a program are always performed (rule R256). -/
theorem Reached.lead {ms pre lead : List Micro} {s t : State} (h : Reached ms pre s t) (hlead : lead <+: ms)
    (hdrives : ∀ m ∈ lead, m.isAnswered = false) : lead <+: pre := by
  refine List.prefix_of_prefix_length_le hlead h.within (Nat.le_of_not_lt fun hlt => ?_)
  obtain rfl | ⟨m, hm, hanswered⟩ := h.stop
  · exact absurd hlead.length_le (Nat.not_le_of_lt hlt)
  · obtain ⟨tail, rfl⟩ := hlead
    rw [List.getElem?_append_left hlt] at hm
    simp [hdrives m (List.mem_of_getElem? hm)] at hanswered

theorem runMicros_reached (ms : List Micro) (s : State) : ∃ pre, Reached ms pre s (runMicros ms s).state := by
  have h := runMicros_spec ms s
  cases hr : runMicros ms s with
  | finished t =>
    rw [hr] at h
    exact ⟨ms, List.prefix_rfl, .inl rfl, h.dc, h.rst, [], by simpa [Run.state] using h.trace⟩
  | failed e t =>
    rw [hr] at h
    obtain ⟨pre, bytes, post, u, part, rfl, hu, htrace, hdc, hrst, -⟩ := h
    exact ⟨pre, List.prefix_append _ _, .inr ⟨.tx bytes, by simp, rfl⟩, hdc.trans hu.dc, hrst.trans hu.rst, _,
      htrace.trans (congrArg (· ++ _) hu.trace)⟩
  | waiting t =>
    rw [hr] at h
    obtain ⟨pre, m, post, rfl, hm, ht⟩ := h
    exact ⟨pre, List.prefix_append _ _, .inr ⟨m, by simp, hm⟩, ht.dc, ht.rst, [], by simpa [Run.state] using ht.trace⟩

/-- What ends an operation outside a DRAW drives no line. -/
theorem Run.settle_lines {r : Run} (hd : r.state.drawing = none) : r.settle.dc = r.state.dc ∧ r.settle.rst = r.state.rst := by
  cases r with
  | finished s =>
    obtain ⟨-, -, hdc, hrst, -⟩ := s.complete_keeps
    rw [Run.settle_finished (s := s) hd]
    exact ⟨hdc, hrst⟩
  | failed e s =>
    obtain ⟨-, -, hdc, hrst, -⟩ := s.abort_keeps e
    exact ⟨hdc, hrst⟩
  | waiting s => exact ⟨rfl, rfl⟩

theorem State.resume_reached {s : State} (hd : s.drawing = none) : ∃ pre, Reached (s.mprog.drop s.upc) pre s s.resume := by
  obtain ⟨pre, h⟩ := runMicros_reached (s.mprog.drop s.upc) s
  have idle : (runMicros (s.mprog.drop s.upc) s).state.drawing = none := (runMicros_kept _ s).drawing.trans hd
  obtain ⟨hdc, hrst⟩ := Run.settle_lines idle
  obtain ⟨more, htrace⟩ := h.trace
  obtain ⟨evs, hevs⟩ := (Run.settle_grows (runMicros (s.mprog.drop s.upc) s)).trace
  exact ⟨pre, h.within, h.stop, hdc.trans h.dc, hrst.trans h.rst, more ++ evs,
    by rw [State.resume, ← hevs, htrace, List.append_assoc]⟩

theorem State.start_reached (s : State) (op : Operation) : ∃ pre, Reached (s.expand op) pre s (s.start op) := by
  obtain ⟨pre, h⟩ := State.resume_reached (s := s.accept op) rfl
  exact ⟨pre, h.within, h.stop, h.dc, h.rst, h.trace⟩

/-- Settles O21: the pulse and the first low drive wait for nothing. -/
theorem initPulsesResetFirst : Obligations.InitPulsesResetFirst := by
  intro s l hb hl ha
  obtain ⟨pre, reached⟩ := s.start_reached .init
  rw [State.expand_init hl] at reached
  have pulse : hardReset ++ [.dcSet false] <+: initProgram s.params s.cfg l := ⟨_, (initProgram_eq s.params s.cfg l).symm⟩
  obtain ⟨later, rfl⟩ := reached.lead pulse (by decide)
  obtain ⟨more, htrace⟩ := reached.trace
  refine ⟨_, okEvents later ++ more, exec_init hb hl ha, ?_, by simpa [hardReset, Micro.event] using htrace⟩
  rw [reached.rst, List.append_assoc]
  refine rstAfter_hardReset_append (fun b hb => ?_) _
  have inside := reached.within
  rw [initProgram_eq_hardReset_append, List.append_assoc, List.prefix_append_right_inj] at inside
  exact rstSet_notMem_initAfterReset b _ _ _ (inside.subset hb)

/-- Only INIT and HARD_RESET drive the reset line (rules R156, R172). -/
theorem rstSet_notMem_expansion {op : Operation} (hi : op ≠ .init) (hh : op ≠ .hardReset) (b : Bool) (p : Params) (c : Cfg)
    (l : Latches) : Micro.rstSet b ∉ expansion p c l op := by
  cases op with
  | init => exact absurd rfl hi
  | hardReset => exact absurd rfl hh
  | command m ps => exact rstSet_notMem_writeCommand b p m ps
  | _ => simp [expansion, orientationProgram, pixelProgram, addressWindow, writeRange, writePixelData, softwareReset, sleepOut, displayOn,
      startData, writeData, writeWord, delayMs, rstSet_notMem_writeCommand]

/-- INIT and HARD_RESET begin with the pulse and do not drive the line after it (rules R156, R172). -/
theorem expansion_pulse {op : Operation} (h : op = .init ∨ op = .hardReset) (p : Params) (c : Cfg) (l : Latches) :
    ∃ tail, expansion p c l op = hardReset ++ tail ∧ ∀ b, Micro.rstSet b ∉ tail := by
  rcases h with rfl | rfl
  · exact ⟨_, initProgram_eq_hardReset_append .., fun b => rstSet_notMem_initAfterReset b _ _ _⟩
  · exact ⟨[], rfl, fun b => nofun⟩

/-- An operation that stops anywhere after position `u` of a program that begins with the pulse has ended the pulse. -/
theorem Reached.rst_of_pulse {tail pre : List Micro} {s t : State} {u : Nat} (htail : ∀ b, Micro.rstSet b ∉ tail)
    (h : Reached ((hardReset ++ tail).drop u) pre s t) : t.rst = if u < 3 then .high else s.rst := by
  by_cases hu : u < 3
  · have split : (hardReset ++ tail).drop u = hardReset.drop u ++ tail :=
      List.drop_append_of_le_length (Nat.le_of_lt hu)
    rw [split] at h
    have drives : ∀ m ∈ hardReset, m.isAnswered = false := by decide
    obtain ⟨later, rfl⟩ := h.lead (List.prefix_append _ _) fun m hm => drives m (List.mem_of_mem_drop hm)
    have inside := (List.prefix_append_right_inj _).mp h.within
    rw [h.rst, rstAfter_append, rstAfter_of_no_drive fun b hb => htail b (inside.subset hb), if_pos hu]
    interval_cases u <;> rfl
  · have split : (hardReset ++ tail).drop u = tail.drop (u - 3) := by
      rw [List.drop_append, List.drop_eq_nil_of_le (Nat.le_of_not_lt hu), List.nil_append]
      rfl
    rw [split] at h
    rw [h.rst, if_neg hu]
    exact rstAfter_of_no_drive (fun b hb => htail b (List.mem_of_mem_drop (h.within.subset hb))) _

/-- The lines after a DRAW: the reset line as it was, the selector as it was for no pixel and else driven (rules R212, R230). -/
structure DrawnLines (ps : List Pixel) (s t : State) : Prop where
  rst : t.rst = s.rst
  dc : (t.dc = s.dc ∧ ps = []) ∨ Level.Driven t.dc

theorem pixel_lines (s : State) (q : Pixel) (ps : List Pixel) :
    let t := (runMicros (pixelProgram s.params q.x q.y q.color) (s.acceptDrawn q ps)).state
    t.rst = s.rst ∧ Level.Driven t.dc := by
  obtain ⟨pre, reached⟩ := runMicros_reached (pixelProgram s.params q.x q.y q.color) (s.acceptDrawn q ps)
  refine ⟨?_, ?_⟩
  · rw [reached.rst]
    exact rstAfter_of_no_drive (fun b hb =>
      rstSet_notMem_expansion (op := .setPixel) nofun nofun b s.params s.cfg (s.acceptDrawn q ps).latch (reached.within.subset hb)) _
  · obtain ⟨later, rfl⟩ := reached.lead (lead := [.dcSet false]) ⟨_, rfl⟩ (by decide)
    rw [reached.dc]
    exact dcAfter_append_driven (.inl rfl) _

theorem drawPixels_lines (ps : List Pixel) (s : State) : DrawnLines ps s (drawPixels ps s) := by
  induction ps generalizing s with
  | nil => exact ⟨rfl, .inl ⟨rfl, rfl⟩⟩
  | cons q ps ih =>
    obtain ⟨hrst, hdc⟩ := pixel_lines s q ps
    rw [drawPixels_cons]
    generalize runMicros _ (s.acceptDrawn q ps) = r at hrst hdc
    cases r with
    | finished t =>
      obtain ⟨hrst', hdc'⟩ := ih t.panelAfterOk
      refine ⟨hrst'.trans hrst, .inr (hdc'.elim (fun h => ?_) id)⟩
      rw [h.1]
      exact hdc
    | failed e t =>
      obtain ⟨-, -, hdc', hrst', -⟩ := t.abort_keeps e
      exact ⟨hrst'.trans hrst, .inr (by rw [hdc']; exact hdc)⟩
    | waiting t => exact ⟨hrst, .inr hdc⟩

/-- An operation in progress, a DRAW or not: it reached a point of its micro-program, and in a DRAW pixels may have followed, which leave the
reset line and drive the selector or leave it. -/
theorem State.resume_lines (s : State) :
    ∃ pre u, Reached (s.mprog.drop s.upc) pre s u ∧ s.resume.rst = u.rst ∧ (s.resume.dc = u.dc ∨ Level.Driven s.resume.dc)
      ∧ (s.drawing = none → s.resume.dc = u.dc) := by
  obtain ⟨pre, reached⟩ := runMicros_reached (s.mprog.drop s.upc) s
  have kept := runMicros_kept (s.mprog.drop s.upc) s
  refine ⟨pre, _, reached, ?_⟩
  unfold State.resume
  generalize runMicros _ s = r at kept
  cases hd : s.drawing with
  | none =>
    obtain ⟨hdc, hrst⟩ := Run.settle_lines (kept.drawing.trans hd)
    exact ⟨hrst, .inl hdc, fun _ => hdc⟩
  | some ps =>
    cases r with
    | finished t =>
      obtain ⟨hrst, hdc⟩ := drawPixels_lines ps t.panelAfterOk
      rw [Run.settle_drawing (s := t) (kept.drawing.trans hd)]
      exact ⟨hrst, hdc.imp_left (·.1), nofun⟩
    | failed e t =>
      obtain ⟨-, -, hdc, hrst, -⟩ := t.abort_keeps e
      exact ⟨hrst, .inl hdc, nofun⟩
    | waiting t => exact ⟨rfl, .inl rfl, nofun⟩

theorem Instr.operation_eq_init {i : Instr} : i.operation = some .init ↔ i = .init := by cases i <;> simp [Instr.operation]

theorem Instr.operation_eq_hardReset {i : Instr} : i.operation = some .hardReset ↔ i = .hardReset := by
  cases i <;> simp [Instr.operation]

/-- The reset line, for any instruction (rules R27, R45). -/
theorem exec_rst {i : Instr} {s t : State} (h : exec i s = .next t) :
    ((i = .init ∨ i = .hardReset) → t.rst = .high) ∧ ((∀ r g, i ≠ .new r g) → i ≠ .init → i ≠ .hardReset → t.rst = s.rst) := by
  obtain ⟨r, g, rfl⟩ | ⟨ps, rfl, -, rfl⟩ | ⟨op, hop, -, -, rfl⟩ := exec_cases h
  · exact ⟨by simp, fun hnew => absurd rfl (hnew r g)⟩
  · exact ⟨by simp, fun _ _ _ => (drawPixels_lines ps s).rst⟩
  · obtain ⟨pre, reached⟩ := (s.latchFor i).start_reached op
    refine ⟨fun hpulse => ?_, fun _ hi hh => ?_⟩
    · have pulsed : op = .init ∨ op = .hardReset := by
        rcases hpulse with rfl | rfl <;> cases hop
        · exact .inl rfl
        · exact .inr rfl
      obtain ⟨tail, hprogram, htail⟩ := expansion_pulse pulsed s.params s.cfg (s.latchFor i).latch
      rw [State.expand, State.latchFor_params, State.latchFor_cfg, hprogram] at reached
      exact Reached.rst_of_pulse (u := 0) htail reached
    · have hi' : op ≠ .init := fun h => hi (Instr.operation_eq_init.mp (h ▸ hop))
      have hh' : op ≠ .hardReset := fun h => hh (Instr.operation_eq_hardReset.mp (h ▸ hop))
      rw [reached.rst]
      exact rstAfter_of_no_drive (fun b hb => rstSet_notMem_expansion hi' hh' b _ _ _ (reached.within.subset hb)) _

/-- The program of an operation in progress (rule R22). -/
theorem State.Inv.mprog {s : State} (h : s.Inv) (hb : s.busy = true) : s.mprog = expansion s.params s.cfg s.latch s.op := by
  obtain ⟨⟨-, -, hbusy⟩, -⟩ := h
  obtain ⟨-, hmprog, -⟩ := hbusy hb
  exact hmprog

/-- A drawing adapter runs with a SET_PIXEL only (rule R230). -/
theorem State.Inv.drawing {s : State} (h : s.Inv) (hop : s.op ≠ .setPixel) : s.drawing = none := by
  obtain ⟨⟨-, hdrawing, -⟩, -⟩ := h
  exact by_contra fun hd => hop (hdrawing hd)

/-- Settles O43. -/
theorem resetLineFrame : Obligations.ResetLineFrame := by
  refine ⟨fun s t i => exec_rst, fun s t hinv hb hstep => ?_⟩
  obtain rfl : s.resume = t := Host.Outcome.next.inj ((step_busy hb).symm.trans hstep)
  obtain ⟨pre, u, reached, hrst, -⟩ := s.resume_lines
  rw [hinv.mprog hb] at reached
  refine ⟨fun hpulse => ?_, fun hi hh => ?_⟩
  · obtain ⟨tail, hprogram, htail⟩ := expansion_pulse hpulse s.params s.cfg s.latch
    rw [hprogram] at reached
    exact hrst.trans (reached.rst_of_pulse htail)
  · rw [hrst, reached.rst]
    exact rstAfter_of_no_drive
      (fun b hb => rstSet_notMem_expansion hi hh b _ _ _ (List.mem_of_mem_drop (reached.within.subset hb))) _

/-- The operations that drive no selector (rules R153, R156, R157). -/
def Operation.isQuiet : Operation → Bool
  | .writeData _ | .hardReset | .delayMs _ => true
  | .init | .setOrientation | .setPixel | .setAddressWindow | .softwareReset | .sleepOut | .displayOn => false
  | .setColumns _ _ | .setRows _ _ | .writePixel _ | .command _ _ | .startData => false

theorem dcSet_notMem_expansion {op : Operation} (h : op.isQuiet = true) (b : Bool) (p : Params) (c : Cfg) (l : Latches) :
    Micro.dcSet b ∉ expansion p c l op := by
  cases op <;> cases h <;> simp [expansion, writeData, hardReset, delayMs]

/-- Every other operation drives the selector before anything it waits for (rules R151, R152, R172). -/
theorem expansion_drives {op : Operation} (h : op.isQuiet = false) (p : Params) (c : Cfg) (l : Latches) :
    ∃ lead, lead <+: expansion p c l op ∧ (∀ m ∈ lead, m.isAnswered = false) ∧ ∀ d, Level.Driven (dcAfter lead d) := by
  cases op
  case writeData | hardReset | delayMs => cases h
  case init => exact ⟨hardReset ++ [.dcSet false], ⟨_, (initProgram_eq ..).symm⟩, by decide, fun _ => .inl rfl⟩
  case startData => exact ⟨[.dcSet true], ⟨_, rfl⟩, by decide, fun _ => .inr rfl⟩
  all_goals exact ⟨[.dcSet false], ⟨_, rfl⟩, by decide, fun _ => .inl rfl⟩

/-- The instructions that leave the selector alone are those whose operation does, and DRAW of nothing. -/
theorem Instr.isQuiet_operation {i : Instr} {op : Operation} (hop : i.operation = some op) :
    op.isQuiet = true ↔ (∃ bs, i = .writeData bs) ∨ (∃ v, i = .writeWord v) ∨ i = .hardReset ∨ (∃ n, i = .delayMs n) ∨ i = .draw [] := by
  cases i <;> cases hop <;> simp [Operation.isQuiet]

/-- Settles O44. -/
theorem selectorFrame : Obligations.SelectorFrame := by
  refine ⟨fun s t i hx => ?_, fun s t hinv hb hstep => ?_⟩
  · obtain ⟨r, g, rfl⟩ | ⟨ps, rfl, -, rfl⟩ | ⟨op, hop, -, -, rfl⟩ := exec_cases hx
    · exact ⟨by simp, fun _ hnew => absurd rfl (hnew r g)⟩
    · have lines := (drawPixels_lines ps s).dc
      refine ⟨fun hquiet => ?_, fun hloud _ => ?_⟩
      · obtain rfl : ps = [] := by simpa using hquiet
        rfl
      · exact lines.resolve_left fun h => hloud (by simp [h.2])
    · obtain ⟨pre, reached⟩ := (s.latchFor i).start_reached op
      refine ⟨fun hquiet => ?_, fun hloud _ => ?_⟩
      · rw [reached.dc]
        exact dcAfter_of_no_drive (fun b hb => dcSet_notMem_expansion ((Instr.isQuiet_operation hop).mpr hquiet) b _ _ _
          (reached.within.subset hb)) _
      · have hop' : op.isQuiet = false := eq_false_of_ne_true fun h => hloud ((Instr.isQuiet_operation hop).mp h)
        obtain ⟨lead, hlead, hdrives, hdriven⟩ := expansion_drives hop' s.params s.cfg (s.latchFor i).latch
        obtain ⟨later, rfl⟩ := reached.lead hlead hdrives
        rw [reached.dc]
        exact dcAfter_append_driven (hdriven _) _
  · obtain rfl : s.resume = t := Host.Outcome.next.inj ((step_busy hb).symm.trans hstep)
    obtain ⟨pre, u, reached, -, hdc, hoperation⟩ := s.resume_lines
    refine ⟨?_, fun hquiet => ?_⟩
    · rcases hdc with hdc | hdc
      · rw [hdc, reached.dc]
        exact dcAfter_eq_or_driven pre s.dc
      · exact .inr hdc
    · have quiet : s.op.isQuiet = true ∧ s.op ≠ .setPixel := by
        rcases hquiet with ⟨bs, h⟩ | h | ⟨n, h⟩ <;> rw [h] <;> exact ⟨rfl, nofun⟩
      rw [hoperation (hinv.drawing quiet.2), reached.dc]
      rw [hinv.mprog hb] at reached
      exact dcAfter_of_no_drive (fun b hb =>
        dcSet_notMem_expansion quiet.1 b _ _ _ (List.mem_of_mem_drop (reached.within.subset hb))) _

/-! ### The latches -/

/-- A DRAW leaves the latches, or those of one of its pixels, and never another orientation (rules R28, R30). -/
theorem drawPixels_latch (ps : List Pixel) (s : State) :
    (drawPixels ps s).latch = s.latch
      ∨ ∃ q ∈ ps, (drawPixels ps s).latch = ⟨q.x, q.y, q.color, s.latch.ori, q.x, q.y, q.x, q.y⟩ := by
  induction ps generalizing s with
  | nil => exact .inl rfl
  | cons q ps ih =>
    have here : (runMicros (pixelProgram s.params q.x q.y q.color) (s.acceptDrawn q ps)).state.latch
        = ⟨q.x, q.y, q.color, s.latch.ori, q.x, q.y, q.x, q.y⟩ := (runMicros_kept _ _).latch
    rw [drawPixels_cons]
    generalize runMicros _ (s.acceptDrawn q ps) = r at here
    cases r with
    | finished t =>
      have here : t.latch = _ := here
      rcases ih t.panelAfterOk with h | ⟨q', hq', h⟩
      · exact .inr ⟨q, List.mem_cons_self, h.trans here⟩
      · exact .inr ⟨q', List.mem_cons_of_mem q hq', h.trans (by rw [State.panelAfterOk_latch, here])⟩
    | failed e t =>
      obtain ⟨-, -, -, -, -, hlatch, -⟩ := t.abort_keeps e
      exact .inr ⟨q, List.mem_cons_self, hlatch.trans here⟩
    | waiting t => exact .inr ⟨q, List.mem_cons_self, here⟩

theorem State.resume_latch (s : State) :
    s.resume.latch = s.latch
      ∨ ∃ q ∈ s.drawing.getD [], s.resume.latch = ⟨q.x, q.y, q.color, s.latch.ori, q.x, q.y, q.x, q.y⟩ := by
  have kept := runMicros_kept (s.mprog.drop s.upc) s
  unfold State.resume
  generalize runMicros _ s = r at kept
  cases r with
  | finished t =>
    have hlatch : t.latch = s.latch := kept.latch
    have hdrawing : t.drawing = s.drawing := kept.drawing
    cases hd : s.drawing with
    | none =>
      obtain ⟨-, -, -, -, -, hsame, -⟩ := t.complete_keeps
      rw [Run.settle_finished (hdrawing.trans hd)]
      exact .inl (hsame.trans hlatch)
    | some ps =>
      rw [Run.settle_drawing (hdrawing.trans hd)]
      simpa [hlatch] using drawPixels_latch ps t.panelAfterOk
  | failed e t =>
    obtain ⟨-, -, -, -, -, hsame, -⟩ := t.abort_keeps e
    exact .inl (hsame.trans kept.latch)
  | waiting t => exact .inl kept.latch

/-- Settles O45: an operation leaves the latches as its instruction's operands were latched. -/
theorem latchFrame : Obligations.LatchFrame := by
  refine ⟨fun s t i hx => ?_, fun s t hb hstep => ?_⟩
  · obtain ⟨r, g, rfl⟩ | ⟨ps, rfl, -, rfl⟩ | ⟨op, hop, -, -, rfl⟩ := exec_cases hx
    · trivial
    · exact drawPixels_latch ps s
    · have latched : ((s.latchFor i).start op).latch = i.latched s.latch := ((s.latchFor i).start_wentOn op).latch
      cases i
      case new | draw => cases hop
      all_goals exact latched
  · obtain rfl : s.resume = t := Host.Outcome.next.inj ((step_busy hb).symm.trans hstep)
    exact s.resume_latch

end Sys2Proof.Machine
end

section
/-! PROOFS. SET_ORIENTATION, SET_PIXEL and SET_ADDRESS_WINDOW (rules R201, R212, R215, R217): what completes and what a failed transmission
leaves. -/

namespace Sys2Proof.Machine

open Sys2Proof

/-- The parameter of SET_ORIENTATION (rules R88, R202). -/
theorem orientationMadctl_eq (p : Params) (c : Cfg) (o : Orientation) :
    orientationMadctl p c o = oriv p o ||| (if c.rgb then 0x00 else 0x08) := rfl

theorem exec_setOrientation_ok {s : State} {o : Orientation} {rest : List BusReply} (hb : s.busy = false)
    (hr : s.replies = List.replicate 2 .ok ++ rest) :
    ∃ t, exec (.setOrientation o) s = .next t
      ∧ Performed (orientationProgram s.params s.cfg o) (s.latchFor (.setOrientation o)) t .setOrientation rest s.timer :=
  exec_ok rfl hb rfl rfl hr rfl

/-- Settles O26: the byte is `orientationMadctl`, for either flag and each orientation. -/
theorem setOrientationCompletes : Obligations.SetOrientationCompletes := by
  intro s o rest hb hr
  obtain ⟨t, hx, done⟩ := exec_setOrientation_ok (o := o) hb hr
  refine ⟨t, hx, ?_, done.dc, done.rst, done.latch, fun a b d sz hp => ?_⟩
  · have completed := done.completed
    have events : okEvents (orientationProgram s.params s.cfg o) ++ [.ret .ok]
        = [.dc false, .tx [0x36] .ok, .dc true, .tx [orientationMadctl s.params s.cfg o] .ok, .ret .ok] := rfl
    rw [show Operation.setOrientation.isHost = true from rfl, if_pos rfl, events, orientationMadctl_eq] at completed
    cases hc : s.cfg.rgb <;> cases o <;> simpa [Completed, hc, oriv] using completed
  · rw [orientationMadctl_eq, hp]
    cases hc : s.cfg.rgb <;> cases o <;> simp [oriv, Params.ref]

/-- A host operation whose transmission `n` is the first to fail returns the error, and nothing is known of the panel (rules R40, R242). -/
theorem Failed.host {ms : List Micro} {s t : State} {op : Operation} {n : Nat} {e : TransportError} {rest : List BusReply}
    {later : List DelayReply} (h : Failed ms s t op n e rest later) (hop : op.isHost = true) :
    t.trace = s.trace ++ errEvents ms n e ++ [.ret (.err e)] ∧ t.panel = Panel.lost := by
  refine ⟨by simpa [hop] using h.trace, h.panel.trans ?_⟩
  cases op <;> cases hop <;> rfl

/-- Settles O28. -/
theorem setOrientationFailure : Obligations.SetOrientationFailure := by
  refine fun s o e rest hb => ⟨fun hr => ?_, fun hr => ?_⟩
  · obtain ⟨t, hx, failed⟩ := exec_err (i := .setOrientation o) (n := 0) (later := s.timer) rfl hb rfl rfl (by decide : 0 < 2) hr rfl
    obtain ⟨htrace, hpanel⟩ := failed.host rfl
    exact ⟨t, hx, failed.busy, failed.dc, htrace.trans (List.append_assoc ..), failed.replies, congrArg Panel.cfg hpanel⟩
  · obtain ⟨t, hx, failed⟩ := exec_err (i := .setOrientation o) (n := 1) (later := s.timer) rfl hb rfl rfl (by decide : 1 < 2) hr rfl
    obtain ⟨htrace, hpanel⟩ := failed.host rfl
    exact ⟨t, hx, failed.busy, failed.dc, htrace.trans (List.append_assoc ..), failed.replies, congrArg Panel.cfg hpanel⟩

theorem exec_setPixel_performed {s : State} {x y c : Word} {rest : List BusReply} (hb : s.busy = false)
    (hr : s.replies = List.replicate 8 .ok ++ rest) :
    ∃ t, exec (.setPixel x y c) s = .next t
      ∧ Performed (pixelProgram s.params x y c) (s.latchFor (.setPixel x y c)) t .setPixel rest s.timer :=
  exec_ok rfl hb rfl rfl hr rfl

/-- Settles O29. -/
theorem setPixelCompletes : Obligations.SetPixelCompletes := by
  intro s x y c rest hb hr
  obtain ⟨t, hx, done⟩ := exec_setPixel_performed (x := x) (y := y) (c := c) hb hr
  exact ⟨t, hx, okEvents_pixelProgram s.params x y c ▸ done.completed, done.dc, done.rst, done.latch⟩

/-- The levels at which a pixel's transmissions find the lines (rule R217). -/
theorem lines_beforeTx_pixelProgram (p : Params) (x y c : Word) {n : Nat} (hn : n < 8) (d r : Level) :
    dcAfter (beforeTx (pixelProgram p x y c) n) d = (if n = 0 ∨ n = 3 ∨ n = 6 then .low else .high)
      ∧ rstAfter (beforeTx (pixelProgram p x y c) n) r = r ∧ delayCount (beforeTx (pixelProgram p x y c) n) = 0 := by
  interval_cases n <;> exact ⟨rfl, rfl, rfl⟩

/-- Settles O31. -/
theorem setPixelAbortsAtFirstFailure : Obligations.SetPixelAbortsAtFirstFailure := by
  intro s x y c n e rest hb hn hr
  obtain ⟨hdc, hrst, hdelays⟩ := lines_beforeTx_pixelProgram s.params x y c hn s.dc s.rst
  obtain ⟨t, hx, failed⟩ := exec_err (i := .setPixel x y c) (ms := pixelProgram s.params x y c) (later := s.timer) rfl hb rfl rfl hn hr
    (by rw [hdelays]; rfl)
  obtain ⟨htrace, hpanel⟩ := failed.host rfl
  exact ⟨t, hx, failed.busy, htrace, failed.dc.trans hdc, failed.rst.trans hrst, failed.cfg, failed.replies,
    congrArg Panel.cfg hpanel, congrArg Panel.fm hpanel⟩

end Sys2Proof.Machine
end

section
/-! PROOFS. DRAW (rules R230 to R233): the adapter goes from pixel to pixel, and what it does in one is what SET_PIXEL does. -/

namespace Sys2Proof.Machine

open Sys2Proof

/-- A DRAW with a pixel to come is the SET_PIXEL of that pixel in progress, the others still to come (rule R230). -/
theorem drawPixels_cons_resume (q : Pixel) (ps : List Pixel) (s : State) : drawPixels (q :: ps) s = (s.acceptDrawn q ps).resume := by
  have kept := runMicros_kept (pixelProgram s.params q.x q.y q.color) (s.acceptDrawn q ps)
  rw [drawPixels_cons]
  change _ = (runMicros (pixelProgram s.params q.x q.y q.color) (s.acceptDrawn q ps)).settle
  generalize runMicros _ (s.acceptDrawn q ps) = r at kept ⊢
  cases r with
  | finished t => exact (Run.settle_drawing kept.drawing).symm
  | failed e t => rfl
  | waiting t => rfl

/-- The events of the pixels `ps`, all transmissions succeeding (rules R215, R230). -/
def drawEvents (ps : List Pixel) : List Event := ps.flatMap fun q => pixelEvents q.x q.y q.color

/-- What is known of the panel after the pixels `ps` (rules R66, R233). -/
def Panel.drawn (q : Panel) (p : Params) (ps : List Pixel) : Panel :=
  ps.foldl (fun q r => q.pixelWritten p ⟨r.x, r.y, r.color, .normal, r.x, r.y, r.x, r.y⟩) q

/-- Between `s` and `t` a DRAW performed the pixels `ps`, all their transmissions succeeding. -/
structure Drew (ps : List Pixel) (s t : State) (rest : List BusReply) : Prop where
  params : t.params = s.params
  cfg : t.cfg = s.cfg
  requests : t.requests = s.requests
  draws : t.draws = s.draws
  timer : t.timer = s.timer
  replies : t.replies = rest
  trace : t.trace = s.trace ++ drawEvents ps
  received : t.received = s.received ++ wireFrom s.dc (drawEvents ps)
  rst : t.rst = s.rst
  dc : t.dc = if ps.isEmpty then s.dc else .high
  panel : t.panel = s.panel.drawn s.params ps

theorem Drew.nil {s : State} {rest : List BusReply} (h : s.replies = rest) : Drew [] s s rest :=
  ⟨rfl, rfl, rfl, rfl, rfl, h, (List.append_nil _).symm, (List.append_nil _).symm, rfl, rfl, rfl⟩

@[simp] theorem State.acceptDrawn_upc (s : State) (q : Pixel) (ps : List Pixel) : (s.acceptDrawn q ps).upc = 0 := rfl

theorem wireFrom_pixelEvents_append (d : Level) (x y c : Word) (evs : List Event) :
    wireFrom d (pixelEvents x y c ++ evs) = wireFrom d (pixelEvents x y c) ++ wireFrom .high evs := rfl

/-- A pixel of a DRAW and the pixels after it. -/
theorem Drew.cons {q : Pixel} {ps : List Pixel} {s u t : State} {rest rest' : List BusReply} (h : Drew [q] s u rest') (k : Drew ps u t rest) :
    Drew (q :: ps) s t rest where
  params := k.params.trans h.params
  cfg := k.cfg.trans h.cfg
  requests := k.requests.trans h.requests
  draws := k.draws.trans h.draws
  timer := k.timer.trans h.timer
  replies := k.replies
  trace := by rw [k.trace, h.trace, List.append_assoc]; rfl
  received := by
    rw [k.received, h.received, h.dc, List.append_assoc]
    simp [drawEvents, wireFrom_pixelEvents_append]
  rst := k.rst.trans h.rst
  dc := by rw [k.dc, h.dc]; simp
  panel := by rw [k.panel, h.panel, h.params]; rfl

/-- One pixel of a DRAW, its eight transmissions succeeding. -/
theorem State.drawn_pixel {s : State} (q : Pixel) (ps : List Pixel) {rest : List BusReply}
    (hr : s.replies = List.replicate 8 .ok ++ rest) :
    ∃ t, drawPixels (q :: ps) s = drawPixels ps t ∧ Drew [q] s t rest := by
  obtain ⟨t, ht, ran⟩ := runMicros_ok (pixelProgram s.params q.x q.y q.color) (s.acceptDrawn q ps) rest s.timer hr rfl
  have kept := runMicros_kept (pixelProgram s.params q.x q.y q.color) (s.acceptDrawn q ps)
  rw [ht] at kept
  have kept : Kept (s.acceptDrawn q ps) t := kept
  have events : drawEvents [q] = okEvents (pixelProgram s.params q.x q.y q.color) := by
    rw [okEvents_pixelProgram]
    exact List.append_nil _
  refine ⟨t.panelAfterOk, by rw [drawPixels_cons, ht], kept.params, kept.cfg, kept.requests, ran.draws, ran.timer, ran.replies,
    events ▸ ran.trace, events ▸ ran.received, ran.rst, ran.dc, ?_⟩
  have panel : t.panel = s.panel := ran.panel.trans (State.panelDuring_other (by rintro ⟨⟩) _)
  rw [State.panelAfterOk_panel, kept.op, kept.params, kept.cfg, kept.latch, panel]
  rfl

/-- The pixels before one of a DRAW, all their transmissions succeeding (rule R231). -/
theorem State.drawn_pixels (before after : List Pixel) {s : State} {rest : List BusReply}
    (hr : s.replies = List.replicate (8 * before.length) .ok ++ rest) :
    ∃ t, drawPixels (before ++ after) s = drawPixels after t ∧ Drew before s t rest := by
  induction before generalizing s with
  | nil => exact ⟨s, rfl, Drew.nil hr⟩
  | cons q before ih =>
    have first : s.replies = List.replicate 8 .ok ++ (List.replicate (8 * before.length) .ok ++ rest) := by
      rw [hr, List.length_cons, Nat.mul_succ, Nat.add_comm, List.replicate_add, List.append_assoc]
    obtain ⟨u, hu, drew⟩ := s.drawn_pixel q (before ++ after) first
    obtain ⟨t, ht, more⟩ := ih drew.replies
    exact ⟨t, hu.trans ht, drew.cons more⟩

/-- The words for whole pixels and then `n` transmissions of the next. -/
theorem replies_pixels (k n : Nat) (rest : List BusReply) :
    List.replicate (k + n) BusReply.ok ++ rest = List.replicate k .ok ++ (List.replicate n .ok ++ rest) := by
  rw [List.replicate_add, List.append_assoc]

/-- A DRAW all of whose transmissions succeed (rule R231). -/
theorem drawPixels_ok (ps : List Pixel) {s : State} {rest : List BusReply} (hr : s.replies = List.replicate (8 * ps.length) .ok ++ rest) :
    ∃ t, drawPixels ps s = t.returnToHost .ok ∧ Drew ps s t rest := by
  obtain ⟨t, ht, drew⟩ := State.drawn_pixels ps [] hr
  rw [List.append_nil] at ht
  exact ⟨t, ht, drew⟩

theorem Drew.completed {ps : List Pixel} {s t : State} {rest : List BusReply} (h : Drew ps s t rest) :
    Completed s (t.returnToHost .ok) (drawEvents ps ++ [.ret .ok]) rest s.timer :=
  ⟨rfl, by rw [← List.append_assoc, ← h.trace]; rfl, h.replies, h.timer, h.params, h.cfg, h.requests, h.draws⟩

/-- A DRAW whose first failed transmission is number `n` of the pixel `q`: the pixels before it, and that pixel's failure (rule R232). -/
theorem drawPixels_err {s : State} (before after : List Pixel) (q : Pixel) {n : Nat} {e : TransportError} {rest : List BusReply}
    (hn : n < 8) (hr : s.replies = List.replicate (8 * before.length + n) .ok ++ .err e :: rest) :
    ∃ u, Drew before s u (List.replicate n .ok ++ .err e :: rest)
      ∧ Failed (pixelProgram s.params q.x q.y q.color) (u.acceptDrawn q after) (drawPixels (before ++ q :: after) s) .setPixel n e rest
          s.timer := by
  obtain ⟨u, hu, drew⟩ := State.drawn_pixels before (q :: after) (hr.trans (replies_pixels ..))
  obtain ⟨-, -, hdelays⟩ := lines_beforeTx_pixelProgram s.params q.x q.y q.color hn s.dc s.rst
  have program : (u.acceptDrawn q after).mprog.drop (u.acceptDrawn q after).upc = pixelProgram s.params q.x q.y q.color :=
    drew.params ▸ rfl
  have failed := (u.acceptDrawn q after).resume_err n e rest s.timer (by rwa [program]) drew.replies
    (by rw [program, hdelays]; exact drew.timer)
  rw [program, ← drawPixels_cons_resume, ← hu] at failed
  exact ⟨u, drew, failed⟩

/-- A DRAW held at transmission `n` of the pixel `q` (rule R264). -/
theorem drawPixels_held {s : State} (before after : List Pixel) (q : Pixel) {n : Nat} {rest : List BusReply}
    (hn : n < 8) (hr : s.replies = List.replicate (8 * before.length + n) .ok ++ .wait :: rest) :
    ∃ u, Drew before s u (List.replicate n .ok ++ .wait :: rest)
      ∧ HeldAt (u.acceptDrawn q after) (drawPixels (before ++ q :: after) s) (okEvents (beforeTx (pixelProgram s.params q.x q.y q.color) n))
          (beforeTx (pixelProgram s.params q.x q.y q.color) n).length rest s.timer
      ∧ Kept (u.acceptDrawn q after) (drawPixels (before ++ q :: after) s) := by
  obtain ⟨u, hu, drew⟩ := State.drawn_pixels before (q :: after) (hr.trans (replies_pixels ..))
  obtain ⟨-, -, hdelays⟩ := lines_beforeTx_pixelProgram s.params q.x q.y q.color hn s.dc s.rst
  obtain ⟨post, hsplit⟩ := beforeTx_split (pixelProgram s.params q.x q.y q.color) n hn
  have program : (u.acceptDrawn q after).mprog.drop (u.acceptDrawn q after).upc = pixelProgram s.params q.x q.y q.color :=
    drew.params ▸ rfl
  have unanswered : UnansweredAt (u.acceptDrawn q after) (beforeTx (pixelProgram s.params q.x q.y q.color) n)
      (.tx (txAt (pixelProgram s.params q.x q.y q.color) n)) rest s.timer :=
    .inl ⟨⟨_, rfl⟩, by rw [txCount_beforeTx (pixelProgram s.params q.x q.y q.color) n hn]; exact drew.replies, by rw [hdelays]; exact drew.timer⟩
  obtain ⟨held, kept, -⟩ := State.resume_held rfl (program.trans hsplit) unanswered
  rw [← drawPixels_cons_resume, ← hu] at held kept
  rw [State.acceptDrawn_upc, Nat.zero_add] at held
  exact ⟨u, drew, held, kept⟩

/-- Settles O32. -/
theorem drawCompletes : Obligations.DrawCompletes := by
  intro s ps rest hb hr
  obtain ⟨t, ht, drew⟩ := drawPixels_ok ps hr
  exact ⟨_, exec_draw_idle ps hb, ht ▸ drew.completed, by rw [ht]; exact drew.rst, by rw [ht]; exact drew.dc, by rw [ht]; rfl⟩

/-- Settles O33. -/
theorem drawStopsAtFirstFailure : Obligations.DrawStopsAtFirstFailure := by
  intro s before after q n e rest hb hn hr
  obtain ⟨u, drew, failed⟩ := drawPixels_err before after q hn hr
  obtain ⟨htrace, hpanel⟩ := failed.host rfl
  exact ⟨_, exec_draw_idle _ hb, failed.busy, failed.drawing, htrace.trans (congrArg (· ++ _ ++ _) drew.trace), failed.replies,
    congrArg Panel.cfg hpanel⟩

end Sys2Proof.Machine
end

section
/-! PROOFS. An operation in progress (rules R22, R158, R242, R243, R258, R264): what its failure delivers, how it is held and goes on, and
that it is the repetition of the one-micro-event step. -/

namespace Sys2Proof.Machine

open Sys2Proof

theorem wireFrom_drawEvents_append (ps : List Pixel) (d : Level) (evs : List Event) :
    wireFrom d (drawEvents ps ++ evs) = wireFrom d (drawEvents ps) ++ wireFrom (if ps.isEmpty then d else .high) evs := by
  induction ps generalizing d with
  | nil => rfl
  | cons q ps ih =>
    have split : drawEvents (q :: ps) = pixelEvents q.x q.y q.color ++ drawEvents ps := rfl
    rw [split, List.append_assoc, wireFrom_pixelEvents_append, wireFrom_pixelEvents_append, ih, List.append_assoc]
    simp

/-- Settles O41, from what any accepted operation leaves when a transmission fails, and from `drawPixels_err`. -/
theorem failedTransmissionDeliversPrefix : Obligations.FailedTransmissionDeliversPrefix := by
  refine ⟨fun s i n e rest later hb ha hn hr ht => ?_, fun s before after q n e rest hb hn hr => ?_⟩
  · cases hop : i.operation with
    | none =>
      rw [State.programOf, hop] at hn
      exact absurd hn (Nat.not_lt_zero n)
    | some op =>
      obtain ⟨t, hx, failed⟩ := exec_err hop hb ha rfl hn hr ht
      obtain ⟨part, hpart, hreceived⟩ := failed.received
      exact ⟨t, part, hx, failed.busy, isHost_of_operation hop ▸ failed.trace, failed.dc, failed.rst, failed.replies, failed.timer, hpart,
        hreceived⟩
  · obtain ⟨u, drew, failed⟩ := drawPixels_err before after q hn hr
    obtain ⟨part, hpart, hreceived⟩ := failed.received
    obtain ⟨htrace, -⟩ := failed.host rfl
    obtain ⟨hdc, hrst, -⟩ := lines_beforeTx_pixelProgram s.params q.x q.y q.color hn u.dc u.rst
    refine ⟨_, part, exec_draw_idle _ hb, failed.busy, failed.drawing, htrace.trans (congrArg (· ++ _ ++ _) drew.trace),
      failed.dc.trans hdc, failed.rst.trans (hrst.trans drew.rst), failed.replies, failed.timer, hpart, hreceived.trans ?_⟩
    have received : (u.acceptDrawn q after).received = s.received ++ wireFrom s.dc (drawEvents before) := drew.received
    have level : (u.acceptDrawn q after).dc = if before.isEmpty then s.dc else .high := drew.dc
    rw [received, level, List.append_assoc s.received, ← wireFrom_drawEvents_append]
    rfl

/-! ### The large step is the repetition of the small one -/

/-- The micro-event at the counter, and those after it. -/
theorem drop_upc_cons {s : State} {m : Micro} {ms : List Micro} (h : s.mprog.drop s.upc = m :: ms) :
    s.mprog[s.upc]? = some m ∧ s.mprog.drop (s.upc + 1) = ms := by
  refine ⟨?_, ?_⟩
  · rw [← List.head?_drop, h]
    rfl
  · rw [← List.drop_drop, h]
    rfl

/-- What a small step does with the micro-event at the counter, one equation for each way it may go (rule R22). -/
theorem microStep_micro {s : State} {m : Micro} (hb : s.busy = true) (hm : s.mprog[s.upc]? = some m) :
    (∀ t, s.perform m = .finished t → s.microStep = t) ∧ (∀ e t, s.perform m = .failed e t → s.microStep = t.abort e)
      ∧ (∀ t, s.perform m = .waiting t → s.microStep = t) := by
  refine ⟨fun t h => ?_, fun e t h => ?_, fun t h => ?_⟩ <;> simp [State.microStep, hb, hm, h]

/-- What a small step does at the end of the micro-program, one equation for each way to go on (rules R22, R230). -/
theorem microStep_end {s : State} (hb : s.busy = true) (hm : s.mprog[s.upc]? = none) :
    (s.drawing = none → s.microStep = s.complete) ∧ (s.drawing = some [] → s.microStep = s.panelAfterOk.returnToHost .ok)
      ∧ (∀ q ps, s.drawing = some (q :: ps) → s.microStep = s.panelAfterOk.acceptDrawn q ps) := by
  refine ⟨fun h => ?_, fun h => ?_, fun q ps h => ?_⟩ <;> simp [State.microStep, hb, hm, h]

/-- A run of the micro-events left is so many small steps, unless it ends before, in one of them. -/
theorem runMicros_iterate {ms : List Micro} {s : State} (hb : s.busy = true) (hms : s.mprog.drop s.upc = ms) :
    match runMicros ms s with
    | .finished t => State.microStep^[ms.length] s = t
    | .failed e t => ∃ k, 1 ≤ k ∧ k ≤ ms.length ∧ State.microStep^[k] s = t.abort e
    | .waiting t => ∃ k, 1 ≤ k ∧ k ≤ ms.length ∧ State.microStep^[k] s = t := by
  induction ms generalizing s with
  | nil => rfl
  | cons m ms ih =>
    obtain ⟨hm, hrest⟩ := drop_upc_cons hms
    obtain ⟨small_finished, small_failed, small_waiting⟩ := microStep_micro hb hm
    have kept := s.perform_kept m
    rw [runMicros_cons]
    cases hp : s.perform m with
    | failed e t => exact ⟨1, le_rfl, Nat.succ_pos _, small_failed e t hp⟩
    | waiting t => exact ⟨1, le_rfl, Nat.succ_pos _, small_waiting t hp⟩
    | finished u =>
      have small := small_finished u hp
      rw [hp] at kept
      have kept : Kept s u := kept
      have left : u.mprog.drop u.upc = ms := by rw [kept.mprog, (State.ranTo_one hp).upc, List.length_singleton, hrest]
      have rest := ih (kept.busy.trans hb) left
      simp only
      cases hr : runMicros ms u with
      | finished t =>
        rw [hr] at rest
        simp only at rest ⊢
        rw [List.length_cons, Function.iterate_succ_apply, small, rest]
      | failed e t =>
        rw [hr] at rest
        obtain ⟨k, hpos, hle, hk⟩ := rest
        exact ⟨k + 1, Nat.succ_pos k, Nat.succ_le_succ hle, by rw [Function.iterate_succ_apply, small, hk]⟩
      | waiting t =>
        rw [hr] at rest
        obtain ⟨k, hpos, hle, hk⟩ := rest
        exact ⟨k + 1, Nat.succ_pos k, Nat.succ_le_succ hle, by rw [Function.iterate_succ_apply, small, hk]⟩

/-- The large step as repeated small ones, where the steps from the end of the micro-program on are at most `j + 1`. -/
theorem State.resume_iterate_of_end {s : State} {j : Nat} (hb : s.busy = true)
    (hend : ∀ t, Kept s t → t.mprog[t.upc]? = none →
      ∃ k, 1 ≤ k ∧ k ≤ j + 1 ∧ (Run.finished t).settle = State.microStep^[k] t) :
    ∃ k, 1 ≤ k ∧ k ≤ (s.mprog.length - s.upc) + 1 + j ∧ s.resume = State.microStep^[k] s := by
  have small := runMicros_iterate hb rfl
  have kept := runMicros_kept (s.mprog.drop s.upc) s
  have spec := runMicros_spec (s.mprog.drop s.upc) s
  unfold State.resume
  cases hr : runMicros (s.mprog.drop s.upc) s with
  | failed e t =>
    rw [hr] at small
    obtain ⟨k, hpos, hle, hk⟩ := small
    rw [List.length_drop] at hle
    exact ⟨k, hpos, by omega, hk.symm⟩
  | waiting t =>
    rw [hr] at small
    obtain ⟨k, hpos, hle, hk⟩ := small
    rw [List.length_drop] at hle
    exact ⟨k, hpos, by omega, hk.symm⟩
  | finished t =>
    rw [hr] at small kept spec
    have kept : Kept s t := kept
    have ended : t.mprog[t.upc]? = none := by
      rw [kept.mprog, spec.upc, List.length_drop]
      exact List.getElem?_eq_none (by omega)
    obtain ⟨k, hpos, hle, hk⟩ := hend t kept ended
    refine ⟨k + (s.mprog.drop s.upc).length, by omega, by rw [List.length_drop]; omega, ?_⟩
    rw [Function.iterate_add_apply, hk, ← small]

/-- In a DRAW: at most fifteen small steps for each pixel to come, its acceptance and its fourteen micro-events. -/
theorem State.resume_iterate_drawing (ps : List Pixel) {s : State} (hb : s.busy = true) (hd : s.drawing = some ps) :
    ∃ k, 1 ≤ k ∧ k ≤ (s.mprog.length - s.upc) + 1 + 15 * ps.length ∧ s.resume = State.microStep^[k] s := by
  induction ps generalizing s with
  | nil =>
    refine State.resume_iterate_of_end hb fun t kept ended => ⟨1, le_rfl, le_rfl, ?_⟩
    have hdt : t.drawing = some [] := kept.drawing.trans hd
    obtain ⟨-, small, -⟩ := microStep_end (kept.busy.trans hb) ended
    rw [Run.settle_drawing hdt]
    exact (small hdt).symm
  | cons q ps ih =>
    refine State.resume_iterate_of_end hb fun t kept ended => ?_
    have hdt : t.drawing = some (q :: ps) := kept.drawing.trans hd
    obtain ⟨-, -, small⟩ := microStep_end (kept.busy.trans hb) ended
    obtain ⟨k, -, hle, hk⟩ := ih (s := t.panelAfterOk.acceptDrawn q ps) rfl rfl
    change k ≤ (14 - 0) + 1 + 15 * ps.length at hle
    refine ⟨k + 1, Nat.succ_pos k, by rw [List.length_cons]; omega, ?_⟩
    rw [Run.settle_drawing hdt, drawPixels_cons_resume, hk, Function.iterate_succ_apply, small q ps hdt]

/-- Settles O51, by whether a DRAW runs. -/
theorem resumeIsRepeatedMicroStep : Obligations.ResumeIsRepeatedMicroStep := by
  intro s hb
  cases hd : s.drawing with
  | some ps => exact State.resume_iterate_drawing ps hb hd
  | none =>
    refine State.resume_iterate_of_end hb fun t kept ended => ⟨1, le_rfl, le_rfl, ?_⟩
    have hdt : t.drawing = none := kept.drawing.trans hd
    obtain ⟨small, -⟩ := microStep_end (kept.busy.trans hb) ended
    rw [Run.settle_finished hdt]
    exact (small hdt).symm

/-! ### Held, and going on (rules R258, R264) -/

/-- When a delay is performed (rule R257). -/
theorem State.pause_eq_finished (s : State) (n : Nat) {t : State} :
    s.pause n = .finished t ↔ s.nextDelay = .returned ∧ t = (s.takeDelay.record (.delay n)).advance := by
  unfold State.pause
  cases s.nextDelay <;> simp [eq_comm]

theorem State.takeDelay_with_replies (s : State) (rs : List BusReply) :
    State.takeDelay { s with replies := rs } = { s.takeDelay with replies := rs } := by
  unfold State.takeDelay
  cases s.timer <;> rfl

/-- A run looks at no answer beyond those it uses. -/
theorem perform_replies {s t : State} {m : Micro} {rest : List BusReply} (rest' : List BusReply)
    (hr : s.replies = List.replicate (txCount [m]) .ok ++ rest) (h : s.perform m = .finished t) :
    State.perform { s with replies := List.replicate (txCount [m]) .ok ++ rest' } m = .finished { t with replies := rest' } := by
  cases m with
  | rstSet b =>
    cases h
    rfl
  | dcSet b =>
    cases h
    rfl
  | tx bytes =>
    have hr : s.replies = .ok :: rest := hr
    have used := (State.transmit_ok bytes hr).symm.trans h
    rw [State.takeReply_listed_eq s hr] at used
    cases used
    rfl
  | delay n =>
    obtain ⟨hd, rfl⟩ := (State.pause_eq_finished s n).mp h
    refine (State.pause_eq_finished { s with replies := rest' } n).mpr ⟨hd, ?_⟩
    rw [State.takeDelay_with_replies s rest']
    rfl

/-- The answers left after a micro-event that was performed. -/
theorem perform_uses {s t : State} {m : Micro} {rest : List BusReply} (hr : s.replies = List.replicate (txCount [m]) .ok ++ rest)
    (h : s.perform m = .finished t) : t.replies = rest := by
  have same := perform_replies rest hr h
  rw [← hr] at same
  exact congrArg State.replies (Run.finished.inj (h.symm.trans same))

theorem runMicros_replies {ms : List Micro} {s t : State} {rest : List BusReply} (rest' : List BusReply)
    (hr : s.replies = List.replicate (txCount ms) .ok ++ rest) (h : runMicros ms s = .finished t) :
    runMicros ms { s with replies := List.replicate (txCount ms) .ok ++ rest' } = .finished { t with replies := rest' } := by
  induction ms generalizing s with
  | nil =>
    cases h
    rfl
  | cons m ms ih =>
    rw [replies_cons] at hr ⊢
    rw [runMicros_cons] at h
    cases hp : s.perform m with
    | failed e u => rw [hp] at h; cases h
    | waiting u => rw [hp] at h; cases h
    | finished u =>
      rw [hp] at h
      rw [runMicros_cons, perform_replies _ hr hp]
      exact ih (perform_uses hr hp) h

end Sys2Proof.Machine
end

section
/-! PROOFS. Held operations and DRAWs go on as if they had never waited (rules R230 to R232, R258, R264). -/

namespace Sys2Proof.Machine

open Sys2Proof

/-- An operation in progress may be taken up anywhere on its way. -/
theorem State.resume_eq_of_finished {s u : State} {pre post : List Micro} (hs : s.mprog.drop s.upc = pre ++ post)
    (h : runMicros pre s = .finished u) : s.resume = u.resume := by
  have spec := runMicros_spec pre s
  have kept := runMicros_kept pre s
  rw [h] at spec kept
  have kept : Kept s u := kept
  have left : u.mprog.drop u.upc = post := by rw [kept.mprog, spec.upc, ← List.drop_drop, hs, List.drop_left]
  rw [State.resume, State.resume, hs, left, runMicros_append, h]

/-- An operation held at a transmission, and then answered, ends in the very state in which it would have ended without the wait. -/
theorem State.resume_held_resume {s : State} {pre post : List Micro} {bytes : List Byte} {rest : List BusReply} {later : List DelayReply}
    (hs : s.mprog.drop s.upc = pre ++ .tx bytes :: post) (hr : s.replies = List.replicate (txCount pre) .ok ++ .wait :: rest)
    (ht : s.timer = List.replicate (delayCount pre) .returned ++ later) :
    s.resume.resume = State.resume { s with replies := List.replicate (txCount pre) .ok ++ rest } := by
  obtain ⟨u, hu, ran⟩ := runMicros_ok pre s _ later hr ht
  have held : s.resume = { u with replies := rest } := by
    rw [State.resume, hs, runMicros_append, hu, ← State.takeReply_listed_eq u ran.replies]
    simp only [runMicros_cons, State.perform, State.transmit, State.nextReply_listed u ran.replies, Run.settle]
  rw [held]
  exact (State.resume_eq_of_finished (s := { s with replies := List.replicate (txCount pre) .ok ++ rest }) hs
    (runMicros_replies rest hr hu)).symm

/-- SET_PIXEL held at its transmission `n`. -/
theorem setPixel_held {s : State} (x y c : Word) {n : Nat} {rest : List BusReply} (hb : s.busy = false) (hn : n < 8)
    (hr : s.replies = List.replicate n .ok ++ .wait :: (List.replicate (8 - n) .ok ++ rest)) :
    ∃ t, exec (.setPixel x y c) s = .next t ∧ t.busy = true
      ∧ t.trace = s.trace ++ okEvents (beforeTx (pixelProgram s.params x y c) n)
      ∧ t.upc = (beforeTx (pixelProgram s.params x y c) n).length
      ∧ exec (.setPixel x y c) { s with replies := List.replicate 8 .ok ++ rest } = .next t.resume := by
  obtain ⟨-, -, hdelays⟩ := lines_beforeTx_pixelProgram s.params x y c hn s.dc s.rst
  obtain ⟨post, hsplit⟩ := beforeTx_split (pixelProgram s.params x y c) n hn
  have hcount := txCount_beforeTx (pixelProgram s.params x y c) n hn
  have hr' : s.replies = List.replicate (txCount (beforeTx (pixelProgram s.params x y c) n)) .ok
      ++ .wait :: (List.replicate (8 - n) .ok ++ rest) := by rw [hcount]; exact hr
  have ht : s.timer = List.replicate (delayCount (beforeTx (pixelProgram s.params x y c) n)) .returned ++ s.timer := by rw [hdelays]; rfl
  have all : List.replicate (txCount (beforeTx (pixelProgram s.params x y c) n)) BusReply.ok ++ (List.replicate (8 - n) .ok ++ rest)
      = List.replicate 8 .ok ++ rest := by
    rw [hcount, ← List.append_assoc, List.replicate_append_replicate, Nat.add_sub_cancel' hn.le]
  have program : ((s.latchFor (.setPixel x y c)).accept .setPixel).mprog.drop ((s.latchFor (.setPixel x y c)).accept .setPixel).upc = _ :=
    hsplit
  obtain ⟨⟨hbusy, htrace, hupc, -⟩, -⟩ := State.resume_held rfl program (.inl ⟨⟨_, rfl⟩, hr', ht⟩)
  have goes_on := State.resume_held_resume program hr' ht
  rw [all] at goes_on
  have accepted (rs : List BusReply) : exec (.setPixel x y c) { s with replies := rs }
      = .next (State.resume { (s.latchFor (.setPixel x y c)).accept .setPixel with replies := rs }) := exec_accepted rfl hb rfl
  refine ⟨((s.latchFor (.setPixel x y c)).accept .setPixel).resume, accepted s.replies, hbusy, htrace, hupc.trans (Nat.zero_add _), ?_⟩
  rw [accepted, goes_on]

theorem delayCount_drop {ms : List Micro} (h : delayCount ms = 0) (n : Nat) : delayCount (ms.drop n) = 0 := by
  have split := delayCount_append (ms.take n) (ms.drop n)
  rw [List.take_append_drop, h] at split
  omega

/-- The pixel of a DRAW in progress completes, and the pixels to come follow, from a state `u` that has only gone on. -/
theorem State.Inv.resume_drawing {s : State} {ps : List Pixel} {rest : List BusReply} (h : s.Inv) (hb : s.busy = true)
    (hd : s.drawing = some ps) (hr : s.replies = List.replicate (txCount (s.mprog.drop s.upc)) .ok ++ rest) :
    ∃ u, s.resume = drawPixels ps u ∧ SameSetup s u ∧ u.draws = s.draws ∧ u.timer = s.timer ∧ u.replies = rest
      ∧ u.trace = s.trace ++ okEvents (s.mprog.drop s.upc) := by
  have pixel : s.op = .setPixel := by
    by_contra hop
    exact absurd (hd.symm.trans (h.drawing hop)) nofun
  have delays : delayCount (s.mprog.drop s.upc) = 0 := by
    rw [h.mprog hb, pixel]
    exact delayCount_drop (delayCount_pixelProgram ..) _
  obtain ⟨u, hu, ran⟩ := runMicros_ok (s.mprog.drop s.upc) s rest s.timer hr (by rw [delays]; rfl)
  have kept := runMicros_kept (s.mprog.drop s.upc) s
  rw [hu] at kept
  have kept : Kept s u := kept
  refine ⟨u.panelAfterOk, ?_, ⟨kept.params, kept.cfg, kept.requests⟩, ran.draws, ran.timer, ran.replies, ran.trace⟩
  rw [State.resume, hu, Run.settle_drawing (kept.drawing.trans hd)]

/-- The words for what is left of a pixel, for whole pixels and for `n` transmissions of the next. -/
theorem replies_left (j k n : Nat) (rest : List BusReply) :
    List.replicate (j + k + n) BusReply.ok ++ rest = List.replicate j .ok ++ (List.replicate (k + n) .ok ++ rest) := by
  rw [Nat.add_assoc, List.replicate_add, List.append_assoc]

/-- A DRAW held at a transmission of one of its pixels, from its acceptance or from the pixel in progress. -/
theorem drawPixels_heldAt {s : State} (before after : List Pixel) (q : Pixel) {n : Nat} {rest : List BusReply} (hn : n < 8)
    (hr : s.replies = List.replicate (8 * before.length + n) .ok ++ .wait :: rest) :
    HeldAt s (drawPixels (before ++ q :: after) s)
        (before.flatMap (fun r => pixelEvents r.x r.y r.color) ++ okEvents (beforeTx (pixelProgram s.params q.x q.y q.color) n))
        (beforeTx (pixelProgram s.params q.x q.y q.color) n).length rest s.timer
      ∧ (drawPixels (before ++ q :: after) s).op = .setPixel
      ∧ (drawPixels (before ++ q :: after) s).mprog = pixelProgram s.params q.x q.y q.color
      ∧ (drawPixels (before ++ q :: after) s).drawing = some after := by
  obtain ⟨u, drew, ⟨hbusy, htrace, hupc, hreplies, htimer, hparams, hcfg, hrequests, hdraws⟩, kept⟩ := drawPixels_held before after q hn hr
  refine ⟨⟨hbusy, ?_, hupc, hreplies, htimer, hparams.trans drew.params, hcfg.trans drew.cfg, hrequests.trans drew.requests,
    hdraws.trans drew.draws⟩, kept.op, kept.mprog.trans (congrArg (pixelProgram · q.x q.y q.color) drew.params), kept.drawing⟩
  rw [htrace, ← List.append_assoc]
  exact congrArg (· ++ _) drew.trace

/-- Settles O50, clause by clause: `setPixel_held`, `exec_accepted`, `resume_held`, `resume_ok`, `resume_err`, and the same of a DRAW. -/
theorem unansweredTransmissionHolds : Obligations.UnansweredTransmissionHolds := by
  refine ⟨fun s x y c n rest hb hn hr => ?_, fun s i op hb hop ha => ?_, fun s pre post m rest later hb hs h => ?_,
    fun s rest later hb hd hr ht => ?_, fun s n e rest later hb hn hr ht => ?_, fun s before after q n rest hb hn hr => ?_,
    fun s ps rest hinv hb hd hr => ?_, fun s before after q n e rest hinv hb hd hn hr => ?_,
    fun s before after q n rest hinv hb hd hn hr => ?_⟩
  · obtain ⟨t, hx, hbusy, htrace, hupc, hall⟩ := setPixel_held x y c hb hn hr
    exact ⟨t, t.resume, t.resume, hx, hbusy, htrace, hupc, step_busy hbusy, hall, rfl⟩
  · rw [exec_accepted hop hb ha, step_busy rfl, State.programOf_eq s hop]
    rfl
  · obtain ⟨held, kept, hdc, hrst, -, hreceived⟩ := State.resume_held hb hs h
    exact ⟨_, step_busy hb, held, kept.op, kept.mprog, kept.latch, kept.drawing, hdc, hrst, hreceived⟩
  · obtain ⟨done, hdc, hrst, hlatch, -, -, hreceived⟩ := State.resume_ok hd rest later hr ht
    exact ⟨_, step_busy hb, done, hlatch, hdc, hrst, hreceived⟩
  · have failed := s.resume_err n e rest later hn hr ht
    refine ⟨_, step_busy hb, failed.busy, failed.drawing, failed.latch, failed.params, failed.cfg, failed.requests, failed.replies,
      failed.timer, failed.trace, failed.dc, failed.rst, fun hhost => ?_⟩
    obtain ⟨-, hpanel⟩ := failed.host hhost
    exact ⟨congrArg Panel.cfg hpanel, congrArg Panel.fm hpanel⟩
  · exact ⟨_, exec_draw_idle _ hb, drawPixels_heldAt before after q hn hr⟩
  · obtain ⟨u, hu, setup, hdraws, htimer, hreplies, htrace⟩ := hinv.resume_drawing hb hd (hr.trans (replies_pixels ..))
    obtain ⟨t, ht, drew⟩ := drawPixels_ok ps hreplies
    obtain ⟨hbusy, htrace', hrest, hlater, hparams, hcfg, hrequests, hdraws'⟩ := drew.completed
    refine ⟨_, step_busy hb, by rw [hu, ht]; rfl, ?_⟩
    rw [hu, ht]
    refine ⟨hbusy, ?_, hrest, hlater.trans htimer, hparams.trans setup.params, hcfg.trans setup.cfg, hrequests.trans setup.requests,
      hdraws'.trans hdraws⟩
    rw [htrace', htrace, List.append_assoc, List.append_assoc]
    rfl
  · obtain ⟨u, hu, setup, hdraws, htimer, hreplies, htrace⟩ := hinv.resume_drawing hb hd (hr.trans (replies_left ..))
    obtain ⟨v, drew, failed⟩ := drawPixels_err before after q hn hreplies
    obtain ⟨htrace', hpanel⟩ := failed.host rfl
    rw [← hu] at failed htrace' hpanel
    refine ⟨_, step_busy hb, failed.busy, failed.drawing, failed.replies, congrArg Panel.cfg hpanel, htrace'.trans ?_⟩
    rw [setup.params, show (v.acceptDrawn q after).trace = _ from drew.trace, htrace]
    rfl
  · obtain ⟨u, hu, setup, hdraws, htimer, hreplies, htrace⟩ := hinv.resume_drawing hb hd (hr.trans (replies_left ..))
    obtain ⟨⟨hbusy, htrace', hupc, hrest, hlater, hparams, hcfg, hrequests, hdraws'⟩, hop, hmprog, hdrawing⟩ :=
      drawPixels_heldAt before after q hn hreplies
    rw [← hu] at hbusy htrace' hupc hrest hlater hparams hcfg hrequests hdraws' hop hmprog hdrawing
    rw [setup.params] at htrace' hupc hmprog hparams
    refine ⟨_, step_busy hb, ⟨hbusy, ?_, hupc, hrest, hlater.trans htimer, hparams, hcfg.trans setup.cfg,
      hrequests.trans setup.requests, hdraws'.trans hdraws⟩, hop, hmprog, hdrawing⟩
    rw [htrace', htrace]
    simp only [List.append_assoc]

end Sys2Proof.Machine
end

section
/-! PROOFS. The two generations (rule R139): outside INIT and the opcodes that differ, a run does not look at the generation. -/

namespace Sys2Proof.Machine

open Sys2Proof

/-- The same block of the generation `g`. -/
def State.withGen (s : State) (g : Generation) : State := { s with params := { s.params with gen := g } }

/-- The same run of a block of the generation `g`. -/
def Run.withGen (g : Generation) : Run → Run
  | .finished s => .finished (s.withGen g)
  | .failed e s => .failed e (s.withGen g)
  | .waiting s => .waiting (s.withGen g)

section

variable {s : State} (g : Generation)

theorem State.takeReply_withGen : (s.withGen g).takeReply = s.takeReply.withGen g := by
  unfold State.takeReply State.withGen
  cases s.replies <;> rfl

theorem State.takeDelay_withGen : (s.withGen g).takeDelay = s.takeDelay.withGen g := by
  unfold State.takeDelay State.withGen
  cases s.timer <;> rfl

/-- Only INIT does to the panel, while it runs, what depends on the parameters (rule R262). -/
theorem State.advance_withGen (h : s.op ≠ .init) : (s.withGen g).advance = s.advance.withGen g := by
  simp [State.advance, State.withGen, h]

theorem State.transmit_withGen (h : s.op ≠ .init) (bytes : List Byte) : (s.withGen g).transmit bytes = (s.transmit bytes).withGen g := by
  have same : (s.withGen g).nextReply = s.nextReply := rfl
  unfold State.transmit
  rw [same, State.takeReply_withGen]
  cases s.nextReply with
  | ok =>
    have sent : ((s.takeReply.record (.tx bytes .ok)).deliver bytes).op ≠ .init := by simpa using h
    exact congrArg Run.finished (State.advance_withGen g sent)
  | err e => rfl
  | wait => rfl

theorem State.pause_withGen (h : s.op ≠ .init) (n : Nat) : (s.withGen g).pause n = (s.pause n).withGen g := by
  have same : (s.withGen g).nextDelay = s.nextDelay := rfl
  unfold State.pause
  rw [same, State.takeDelay_withGen]
  cases s.nextDelay with
  | returned =>
    have paused : (s.takeDelay.record (.delay n)).op ≠ .init := by simpa using h
    exact congrArg Run.finished (State.advance_withGen g paused)
  | wait => rfl

theorem State.perform_withGen (h : s.op ≠ .init) (m : Micro) : (s.withGen g).perform m = (s.perform m).withGen g := by
  cases m with
  | rstSet b => exact congrArg Run.finished (State.advance_withGen (s := (s.setRst b).record (.rst b)) g h)
  | dcSet b => exact congrArg Run.finished (State.advance_withGen (s := (s.setDc b).record (.dc b)) g h)
  | tx bytes => exact State.transmit_withGen g h bytes
  | delay n => exact State.pause_withGen g h n

theorem runMicros_withGen (h : s.op ≠ .init) (ms : List Micro) : runMicros ms (s.withGen g) = (runMicros ms s).withGen g := by
  induction ms generalizing s with
  | nil => rfl
  | cons m ms ih =>
    have kept := s.perform_kept m
    rw [runMicros_cons, runMicros_cons, State.perform_withGen g h]
    cases hp : s.perform m with
    | finished u =>
      rw [hp] at kept
      exact ih (by rw [show u.op = s.op from kept.op]; exact h)
    | failed e u => rfl
    | waiting u => rfl

/-- What SET_ORIENTATION and SET_PIXEL do to the panel does not depend on the generation (rules R37, R66). -/
theorem State.complete_withGen (h : s.op = .setOrientation ∨ s.op = .setPixel) : (s.withGen g).complete = s.complete.withGen g := by
  have host : s.op.isHost = true := by rcases h with h | h <;> rw [h] <;> rfl
  have panel : (s.withGen g).panelAfterOk = s.panelAfterOk.withGen g := by
    simp only [State.panelAfterOk, State.withGen]
    rcases h with h | h <;> rw [h] <;> rfl
  unfold State.complete
  rw [show (s.withGen g).op = s.op from rfl, host, panel]
  rfl

theorem State.abort_withGen (e : TransportError) : (s.withGen g).abort e = (s.abort e).withGen g := by
  unfold State.abort
  rw [show (s.withGen g).op = s.op from rfl]
  split <;> rfl

/-- From its acceptance on. -/
theorem State.resume_withGen (h : s.op = .setOrientation ∨ s.op = .setPixel) (hd : s.drawing = none) :
    (s.withGen g).resume = s.resume.withGen g := by
  have other : s.op ≠ .init := by rcases h with h | h <;> rw [h] <;> nofun
  have kept := runMicros_kept (s.mprog.drop s.upc) s
  unfold State.resume
  change (runMicros (s.mprog.drop s.upc) (s.withGen g)).settle = _
  rw [runMicros_withGen g other]
  cases hr : runMicros (s.mprog.drop s.upc) s with
  | finished u =>
    rw [hr] at kept
    have kept : Kept s u := kept
    have idle : u.drawing = none := kept.drawing.trans hd
    rw [Run.settle_finished idle, Run.withGen, Run.settle_finished (s := u.withGen g) idle]
    exact State.complete_withGen g (by rwa [kept.op])
  | failed e u => exact State.abort_withGen g e
  | waiting u => rfl

end

/-- Settles O34: both operations expand to the same micro-program on either generation. -/
theorem generationsAgree : Obligations.GenerationsAgree := by
  rintro s t u g i (⟨o, rfl⟩ | ⟨x, y, c, rfl⟩) ht hu
  · obtain ⟨-, -, rfl⟩ := (exec_next (op := .setOrientation) rfl).mp ht
    obtain ⟨-, -, rfl⟩ := (exec_next (op := .setOrientation) rfl).mp hu
    exact State.resume_withGen (s := (s.latchFor (.setOrientation o)).accept .setOrientation) g (.inl rfl) rfl
  · obtain ⟨-, -, rfl⟩ := (exec_next (op := .setPixel) rfl).mp ht
    obtain ⟨-, -, rfl⟩ := (exec_next (op := .setPixel) rfl).mp hu
    exact State.resume_withGen (s := (s.latchFor (.setPixel x y c)).accept .setPixel) g (.inr rfl) rfl

end Sys2Proof.Machine
end

section
/-! PROOFS. What is known of the panel (rules R37, R38, R40, R60 to R66, R262, R282) after single instructions of the wire and the micro
layer. -/

namespace Sys2Proof.Machine

open Sys2Proof

section

variable {p : Params} {q : Panel}

theorem Panel.standing_of (hc : q.cfg = .ok) (hk : q.calibrated = true) : q.standing = true := Panel.standing_iff.mpr ⟨hc, hk⟩

theorem Panel.fallen_of (h : q.cfg ≠ .ok ∨ q.calibrated = false) : q.standing = false := by
  rw [← Bool.not_eq_true, Panel.standing_iff]
  rintro ⟨hc, hk⟩
  rcases h with h | h
  · exact h hc
  · simp [hk] at h

/-- What is kept after coordinates that mean nothing: the standing premises and the frame (U4). -/
theorem Panel.obscured_eq (hc : q.cfg = .ok) (hk : q.calibrated = true) :
    q.obscured = { Panel.blank .ok with calibrated := true, wordCells := q.wordCells, frame := q.frame } := by
  rw [Panel.obscured, hc, hk]

theorem columnSpan_some (p : Params) (f : Frame) (a b : Word) :
    columnSpan p (some f) a b = if a.toNat ≤ b.toNat ∧ b.toNat < (frameSize p f).width then some ⟨a, b⟩ else none := rfl

theorem rowSpan_some (p : Params) (f : Frame) (a b : Word) :
    rowSpan p (some f) a b = if a.toNat ≤ b.toNat ∧ b.toNat < (frameSize p f).height then some ⟨a, b⟩ else none := rfl

theorem Panel.columnsSet_eq (hs : q.standing = true) {f : Frame} (hf : q.frame = some f) (a b : Word) :
    q.columnsSet p a b = if a.toNat ≤ b.toNat ∧ b.toNat < (frameSize p f).width then { q with columns := some ⟨a, b⟩, fm := [] }
      else q.obscured := by
  rw [Panel.columnsSet, Panel.claim_standing _ hs, hf, columnSpan_some]
  by_cases h : a.toNat ≤ b.toNat ∧ b.toNat < (frameSize p f).width
  · simp only [if_pos h]
  · simp only [if_neg h]

theorem Panel.rowsSet_eq (hs : q.standing = true) {f : Frame} (hf : q.frame = some f) (a b : Word) :
    q.rowsSet p a b = if a.toNat ≤ b.toNat ∧ b.toNat < (frameSize p f).height then { q with rows := some ⟨a, b⟩, fm := [] }
      else q.obscured := by
  rw [Panel.rowsSet, Panel.claim_standing _ hs, hf, rowSpan_some]
  by_cases h : a.toNat ≤ b.toNat ∧ b.toNat < (frameSize p f).height
  · simp only [if_pos h]
  · simp only [if_neg h]

theorem Panel.windowSet_eq (hs : q.standing = true) {f : Frame} (hf : q.frame = some f) (x0 y0 x1 y1 : Word) :
    q.windowSet p x0 y0 x1 y1
      = if (x0.toNat ≤ x1.toNat ∧ x1.toNat < (frameSize p f).width) ∧ y0.toNat ≤ y1.toNat ∧ y1.toNat < (frameSize p f).height then
          { q with columns := some ⟨x0, x1⟩, rows := some ⟨y0, y1⟩, fm := [] }
        else q.obscured := by
  rw [Panel.windowSet, Panel.claim_standing _ hs, hf, columnSpan_some, rowSpan_some]
  by_cases hx : x0.toNat ≤ x1.toNat ∧ x1.toNat < (frameSize p f).width
  · by_cases hy : y0.toNat ≤ y1.toNat ∧ y1.toNat < (frameSize p f).height
    · simp only [if_pos hx, if_pos hy, if_pos (And.intro hx hy)]
    · simp only [if_pos hx, if_neg hy, if_neg fun h => hy (And.right h)]
  · simp only [if_neg hx, if_neg fun h => hx (And.left h)]

theorem Panel.windowSet_no_frame (hs : q.standing = true) (hf : q.frame = none) (x0 y0 x1 y1 : Word) :
    q.windowSet p x0 y0 x1 y1 = q.obscured := by
  rw [Panel.windowSet, Panel.claim_standing _ hs, hf]
  rfl

theorem Panel.onePixelWindow_iff : q.onePixelWindow = true ↔ ∃ x y, q.columns = some ⟨x, x⟩ ∧ q.rows = some ⟨y, y⟩ := by
  unfold Panel.onePixelWindow
  constructor
  · intro h
    split at h
    case h_1 c r hc hr =>
      obtain ⟨x, x'⟩ := c
      obtain ⟨y, y'⟩ := r
      obtain ⟨rfl, rfl⟩ : x = x' ∧ y = y' := by simpa using h
      exact ⟨x, y, hc, hr⟩
    case h_2 => cases h
  · rintro ⟨x, y, hc, hr⟩
    simp [hc, hr]

theorem Panel.pixelStreamed_standing (hs : q.standing = true) :
    q.pixelStreamed = if q.wordCells && q.onePixelWindow then { q with fm := [] } else q.obscured := Panel.claim_standing _ hs

end

/-- Settles O19: the panel's three cases are where it stands with the window inside or not, where it has no known frame, and where it has fallen. -/
theorem addressWindowCompletes : Obligations.AddressWindowCompletes := by
  intro s x0 y0 x1 y1 rest hb hr
  obtain ⟨t, hx, done⟩ := exec_ok (i := .setAddressWindow x0 y0 x1 y1) (later := s.timer) rfl hb rfl rfl hr rfl
  have panel : t.panel = s.panel.windowSet s.params x0 y0 x1 y1 := done.panel
  refine ⟨t, hx, done.completed, done.dc, done.rst, done.latch, fun hc hk => ⟨fun f hf => ?_, fun hf => ?_⟩, fun hfallen => ?_⟩
  · rw [panel, Panel.windowSet_eq (Panel.standing_of hc hk) hf, Panel.obscured_eq hc hk]
  · rw [panel, Panel.windowSet_no_frame (Panel.standing_of hc hk) hf, Panel.obscured_eq hc hk]
  · rw [panel, Panel.windowSet, Panel.claim_fallen _ (Panel.fallen_of hfallen)]

/-- A wire command is at most three transmissions and one delay (formats W0 to WL of rules R82 to R86). -/
theorem words_of_wireForm {i : Instr} {m : Mnemonic} {ps : List Byte} (h : i.wireForm = some (m, ps)) (s : State) :
    txCount (s.programOf i) ≤ 3 ∧ delayCount (s.programOf i) ≤ 1 := by
  have command (m : Mnemonic) (ps : List Byte) : txCount (writeCommand s.params m ps) ≤ 3 ∧ delayCount (writeCommand s.params m ps) ≤ 1 := by
    rw [txCount_writeCommand, delayCount_writeCommand]
    cases ps <;> simp [commandTx]
  cases i <;> cases h
  case swreset | slpout | dispon => exact ⟨Nat.le_of_ble_eq_true rfl, Nat.le_refl 1⟩
  case caset | raset | ramwr => exact ⟨Nat.le_of_ble_eq_true rfl, Nat.zero_le 1⟩
  all_goals exact command ..

/-- The panel after a wire command of the table, where the words that it may use are listed. -/
theorem exec_panel {s : State} {i : Instr} {op : Operation} {m : Mnemonic} {ps : List Byte} {rest : List BusReply} {later : List DelayReply}
    (hform : i.wireForm = some (m, ps)) (hm : inTable s.params m = true) (hop : i.operation = some op) (hb : s.busy = false)
    (hr : s.replies = List.replicate 3 .ok ++ rest) (ht : s.timer = .returned :: later) :
    ∃ t, exec i s = .next t ∧ t.panel = Panel.afterOk op s.params s.cfg (i.latched s.latch) s.panel := by
  obtain ⟨htx, hdelay⟩ := words_of_wireForm hform s
  obtain ⟨-, hgate, -⟩ := Instr.gate_of_wireForm hform s.params
  have replies : s.replies = List.replicate (txCount (s.programOf i)) .ok ++ (List.replicate (3 - txCount (s.programOf i)) .ok ++ rest) := by
    rw [hr, ← List.append_assoc, List.replicate_append_replicate, Nat.add_sub_cancel' htx]
  have timer : s.timer = List.replicate (delayCount (s.programOf i)) .returned
      ++ (List.replicate (1 - delayCount (s.programOf i)) .returned ++ later) := by
    rw [ht, ← List.append_assoc, List.replicate_append_replicate, Nat.add_sub_cancel' hdelay]
    rfl
  obtain ⟨t, hx, done⟩ := exec_ok hop hb (hgate.trans hm) rfl replies timer
  exact ⟨t, hx, done.panel⟩

/-- The commands of which no panel effect is known: those that no operation issues, and the older-only ones (rules R112, R126, R140). -/
def unknownEffect : List Mnemonic :=
  [.slpin, .ptlon, .noron, .dispoff, .ramrd, .frmctr1, .frmctr2, .frmctr3, .invctr, .pwctr1, .pwctr2, .pwctr3, .pwctr4, .pwctr5, .vmctr1,
    .gmctrp1, .gmctrn1]

theorem Panel.commanded_unknown {m : Mnemonic} {ps : List Byte} (q : Panel) (p : Params) (hm : m ∈ unknownEffect) :
    q.commanded p m ps = q.disturbed := by
  unfold Panel.commanded
  split
  case h_8 => rfl
  all_goals exact absurd hm (by decide)

theorem operation_of_unknown {i : Instr} {m : Mnemonic} {ps : List Byte} (hform : i.wireForm = some (m, ps)) (hm : m ∈ unknownEffect) :
    i.operation = some (.command m ps) := by
  cases i <;> cases hform
  case swreset | slpout | dispon | caset | raset | ramwr | invoff | invon | madctl | colmod => exact absurd hm (by decide)
  all_goals rfl

/-- Settles O40: the panel after each command is the effect of its operation, read off where the panel stands in a known frame. -/
theorem wireCommandPanelEffects : Obligations.WireCommandPanelEffects := by
  intro s f a b q rest later hb hc hk hf hr ht
  have hs := Panel.standing_of hc hk
  have obscured : s.panel.obscured = { Panel.blank .ok with calibrated := true, wordCells := s.panel.wordCells, frame := some f } := by
    rw [Panel.obscured_eq hc hk, hf]
  have lost : s.panel.disturbed = Panel.blank .unknown := by rw [Panel.disturbed, hc]
  have effect {i : Instr} {op : Operation} {m : Mnemonic} {ps : List Byte} {r : Panel} (hform : i.wireForm = some (m, ps))
      (hm : inTable s.params m = true) (hop : i.operation = some op)
      (hpanel : Panel.afterOk op s.params s.cfg (i.latched s.latch) s.panel = r) : ∃ t, exec i s = .next t ∧ t.panel = r := by
    obtain ⟨t, hx, done⟩ := exec_panel hform hm hop hb hr ht
    exact ⟨t, hx, done.trans hpanel⟩
  refine ⟨?_, ?_, ?_, ?_, ?_, ?_, ?_, ?_, ?_, ?_, ?_⟩
  · exact effect (i := .invoff) rfl rfl rfl (Panel.claim_standing _ hs)
  · exact effect (i := .invon) rfl rfl rfl (Panel.claim_standing _ hs)
  · exact effect (i := .slpout) rfl rfl rfl (Panel.claim_standing _ hs)
  · exact effect (i := .dispon) rfl rfl rfl (Panel.claim_standing _ hs)
  · exact effect (i := .swreset) rfl rfl rfl (by simp [Panel.afterOk, Panel.softReset, lost, hs])
  · exact effect (i := .colmod q) rfl rfl rfl (Panel.claim_standing _ hs)
  · exact effect (i := .madctl q) rfl rfl rfl (Panel.claim_standing _ hs)
  · exact effect (i := .caset a b) rfl rfl rfl (obscured ▸ Panel.columnsSet_eq hs hf a b)
  · exact effect (i := .raset a b) rfl rfl rfl (obscured ▸ Panel.rowsSet_eq hs hf a b)
  · obtain ⟨t, hx, panel⟩ := effect (i := .ramwr a) rfl rfl rfl (Panel.pixelStreamed_standing hs)
    rw [← obscured, ← Panel.onePixelWindow_iff]
    refine ⟨t, hx, fun hw h1 => panel.trans ?_, fun h => panel.trans ?_⟩
    · exact if_pos (by rw [hw, h1]; rfl)
    · exact if_neg (by rw [Bool.and_eq_true, not_and_or, Bool.not_eq_true]; exact h)
  · intro i m ps hform hm hmem
    obtain ⟨t, hx, panel⟩ := exec_panel hform hm (operation_of_unknown hform hmem) hb hr ht
    exact ⟨t, hx, panel.trans ((Panel.commanded_unknown s.panel s.params hmem).trans lost)⟩

end Sys2Proof.Machine
end

section
/-! PROOFS. What becomes known of the panel's frame memory, and what `panel_cfg` says (rules R40, R66), whatever the collaborators say. -/

namespace Sys2Proof.Machine

open Sys2Proof

/-- Every cell known in `r` was known so in `q`, or is one of `S`. -/
def Panel.Learns (S : Nat → Word → Prop) (q r : Panel) : Prop := ∀ k v, r.fm.read k = some v → q.fm.read k = some v ∨ S k v

/-- The pixels of a list, as cells. -/
def listCells (ps : List Pixel) (k : Nat) (v : Word) : Prop := ∃ q ∈ ps, k = cellKey q.x q.y ∧ v = q.color

/-- The cells that the operation in progress may make known: its own pixel, and those that a DRAW has to come. -/
def State.cellsToCome (s : State) (k : Nat) (v : Word) : Prop :=
  (s.op = .setPixel ∧ k = cellKey s.latch.x s.latch.y ∧ v = s.latch.color) ∨ listCells (s.drawing.getD []) k v

section

variable {S S' : Nat → Word → Prop} {q r u : Panel}

theorem Panel.Learns.of_nil (h : r.fm = []) : Panel.Learns S q r := fun k v hr => by
  rw [h] at hr
  cases hr

theorem Panel.Learns.of_eq (h : r.fm = q.fm) : Panel.Learns S q r := fun _ _ hr => .inl (h ▸ hr)

theorem Panel.Learns.trans (h : Panel.Learns S q r) (k : Panel.Learns S r u) : Panel.Learns S q u := fun k' v hu =>
  (k k' v hu).elim (h k' v) .inr

theorem Panel.Learns.mono (h : Panel.Learns S q r) (hS : ∀ k v, S k v → S' k v) : Panel.Learns S' q r := fun k v hr =>
  (h k v hr).imp_right (hS k v)

theorem FrameMem.read_write {m : FrameMem} {j k : Nat} {v w : Word} (h : (m.write k v).read j = some w) :
    m.read j = some w ∨ (j = k ∧ w = v) := by
  by_cases hj : j = k
  · subst hj
    rw [FrameMem.read_write_same] at h
    exact .inr ⟨rfl, (Option.some.inj h).symm⟩
  · exact .inl (FrameMem.read_write_other m v hj ▸ h)

theorem Panel.afterOk_learns (op : Operation) (p : Params) (c : Cfg) (l : Latches) (q : Panel) :
    Panel.Learns (fun k v => op = .setPixel ∧ k = cellKey l.x l.y ∧ v = l.color) q (Panel.afterOk op p c l q) := by
  rcases Panel.afterOk_fm op p c l q with h | h | ⟨hop, -, -, -, h⟩
  · exact .of_nil h
  · exact .of_eq h
  · intro k v hr
    rw [h] at hr
    exact (FrameMem.read_write hr).imp_right fun hw => ⟨hop, hw⟩

end

theorem State.panelDuring_learns {S : Nat → Word → Prop} (s : State) (n : Nat) : Panel.Learns S s.panel (s.panelDuring n) := by
  unfold State.panelDuring
  split
  · exact .of_eq rfl
  · split
    · exact .of_nil rfl
    · exact .of_eq rfl

/-- What an operation in progress makes known, where the rest of a DRAW is known to keep to its list. -/
theorem State.resume_learns_of {s : State}
    (hdraw : ∀ ps, s.drawing = some ps → ∀ t, Panel.Learns (listCells ps) t.panel (drawPixels ps t).panel) :
    Panel.Learns s.cellsToCome s.panel s.resume.panel := by
  obtain ⟨n, -, -, hpanel⟩ := runMicros_position (s.mprog.drop s.upc) s
  have run : Panel.Learns s.cellsToCome s.panel (runMicros (s.mprog.drop s.upc) s).state.panel := hpanel ▸ s.panelDuring_learns n
  have kept := runMicros_kept (s.mprog.drop s.upc) s
  unfold State.resume
  generalize runMicros _ s = r at run kept
  refine run.trans ?_
  cases r with
  | finished t =>
    have kept : Kept s t := kept
    have own : Panel.Learns s.cellsToCome t.panel t.panelAfterOk.panel := by
      refine (Panel.afterOk_learns t.op t.params t.cfg t.latch t.panel).mono fun k v h => .inl ?_
      rwa [kept.op, kept.latch] at h
    cases hd : t.drawing with
    | none =>
      rw [Run.settle_finished hd]
      obtain ⟨-, -, -, -, -, -, -, -, -, -, -, -, hc, -⟩ := t.complete_keeps
      exact hc ▸ own
    | some ps =>
      rw [Run.settle_drawing hd]
      have hs : s.drawing = some ps := kept.drawing.symm.trans hd
      exact own.trans ((hdraw ps hs _).mono fun k v h => .inr (by rwa [hs]))
  | failed e t =>
    obtain ⟨-, -, -, -, -, -, -, -, -, -, -, -, ha, -⟩ := t.abort_keeps e
    exact .of_nil ((congrArg Panel.fm ha).trans (Panel.afterErr_fm ..))
  | waiting t => exact .of_eq rfl

/-- A DRAW makes only pixels of its list known (rule R233). -/
theorem drawPixels_learns (ps : List Pixel) (s : State) : Panel.Learns (listCells ps) s.panel (drawPixels ps s).panel := by
  induction ps generalizing s with
  | nil => exact .of_eq rfl
  | cons q ps ih =>
    rw [drawPixels_cons_resume]
    refine (State.resume_learns_of (s := s.acceptDrawn q ps) fun rest h t => ?_).mono fun k v h => ?_
    · obtain rfl : ps = rest := Option.some.inj h
      exact ih t
    · rcases h with ⟨-, hk, hv⟩ | ⟨r, hr, h⟩
      · exact ⟨q, List.mem_cons_self, hk, hv⟩
      · exact ⟨r, List.mem_cons_of_mem _ hr, h⟩

theorem State.resume_learns (s : State) : Panel.Learns s.cellsToCome s.panel s.resume.panel :=
  State.resume_learns_of fun ps _ => drawPixels_learns ps

theorem Instr.operation_eq_setPixel {i : Instr} : i.operation = some .setPixel ↔ ∃ x y c, i = .setPixel x y c := by
  cases i <;> simp [Instr.operation]

/-- Settles O36: a cell becomes known where a SET_PIXEL completes, its own or one of a DRAW, and nowhere else. -/
theorem onlyPixelsReachMemory : Obligations.OnlyPixelsReachMemory := by
  refine ⟨fun s t i hx k v hv hnew => ?_, fun s t hb hx k v hv hnew => ?_⟩
  · obtain ⟨r, g, rfl⟩ | ⟨ps, rfl, -, rfl⟩ | ⟨op, hop, -, -, rfl⟩ := exec_cases hx
    · cases hx
      cases hv
    · exact .inr ⟨ps, rfl, (drawPixels_learns ps s k v hv).resolve_left hnew⟩
    · rcases (State.resume_learns _ k v hv).resolve_left hnew with ⟨rfl, hk, hc⟩ | ⟨q, hq, -⟩
      · obtain ⟨x, y, c, rfl⟩ := Instr.operation_eq_setPixel.mp hop
        exact .inl ⟨x, y, hc ▸ rfl, hk⟩
      · cases hq
  · obtain rfl : s.resume = t := Host.Outcome.next.inj ((step_busy hb).symm.trans hx)
    exact (s.resume_learns k v hv).resolve_left hnew

/-- Where the block is idle, the `RET` that the trace ends in tells `panel_cfg`: unknown after an error, `c` after `Ok` (rule R40). -/
def State.TellsCfg (c : PanelCfg) (t : State) : Prop :=
  t.busy = false →
    (∀ e, t.trace.getLast? = some (.ret (.err e)) → t.panel.cfg = .unknown) ∧ (t.trace.getLast? = some (.ret .ok) → t.panel.cfg = c)

theorem State.tellsCfg_ok {t : State} {evs : List Event} (h : t.trace = evs ++ [.ret .ok]) : t.TellsCfg t.panel.cfg := fun _ => by
  rw [h, List.getLast?_concat]
  exact ⟨nofun, fun _ => rfl⟩

theorem State.tellsCfg_err {t : State} {evs : List Event} {e : TransportError} (c : PanelCfg) (h : t.trace = evs ++ [.ret (.err e)])
    (hc : t.panel.cfg = .unknown) : t.TellsCfg c := fun _ => by
  rw [h, List.getLast?_concat]
  exact ⟨fun _ _ => hc, nofun⟩

theorem Panel.claim_cfg {q r : Panel} (h : r.cfg = q.cfg) : (q.claim r).cfg = q.cfg := by
  unfold Panel.claim
  split
  · exact h
  · rfl

theorem Panel.pixelWritten_cfg (q : Panel) (p : Params) (l : Latches) : (q.pixelWritten p l).cfg = q.cfg := by
  apply Panel.claim_cfg
  split <;> rfl

/-- After a host operation that completed (rule R40). -/
theorem Panel.afterOk_cfg {op : Operation} (h : op.isHost = true) (p : Params) (c : Cfg) (l : Latches) (q : Panel) :
    (Panel.afterOk op p c l q).cfg = if op = .init then .ok else q.cfg := by
  cases op <;> cases h
  case init => exact Panel.initialised_cfg p c
  case setOrientation => exact Panel.claim_cfg rfl
  case setPixel => exact Panel.pixelWritten_cfg q p l

theorem Panel.afterErr_host {op : Operation} (h : op.isHost = true) (q : Panel) : Panel.afterErr op q = Panel.lost := by
  cases op <;> cases h <;> rfl

theorem State.panelDuring_cfg (s : State) (n : Nat) : (s.panelDuring n).cfg = s.panel.cfg := by
  unfold State.panelDuring
  split
  · rfl
  · split <;> rfl

/-- How a host operation in progress ends, where the rest of a DRAW is known to end so. -/
theorem State.resume_tellsCfg_of {s : State} (hb : s.busy = true) (hh : s.op.isHost = true)
    (hdraw : ∀ ps, s.drawing = some ps → ∀ t, (drawPixels ps t).TellsCfg t.panel.cfg) :
    s.resume.TellsCfg (if s.op = .init then .ok else s.panel.cfg) := by
  obtain ⟨n, -, -, hpanel⟩ := runMicros_position (s.mprog.drop s.upc) s
  have during : (runMicros (s.mprog.drop s.upc) s).state.panel.cfg = s.panel.cfg := hpanel ▸ s.panelDuring_cfg n
  have kept := runMicros_kept (s.mprog.drop s.upc) s
  unfold State.resume
  generalize runMicros _ s = r at during kept
  cases r with
  | finished t =>
    have kept : Kept s t := kept
    have after : t.panelAfterOk.panel.cfg = if s.op = .init then .ok else s.panel.cfg := by
      rw [State.panelAfterOk_panel, kept.op, Panel.afterOk_cfg hh]
      exact congrArg (ite _ _) during
    cases hd : t.drawing with
    | none =>
      obtain ⟨-, -, -, -, -, -, -, -, -, -, -, -, hc, htrace⟩ := t.complete_keeps
      rw [kept.op, hh] at htrace
      rw [Run.settle_finished hd, ← after, State.panelAfterOk_panel, ← hc]
      exact State.tellsCfg_ok htrace
    | some ps =>
      rw [Run.settle_drawing hd, ← after]
      exact hdraw ps (kept.drawing.symm.trans hd) _
  | failed e t =>
    have kept : Kept s t := kept
    obtain ⟨-, -, -, -, -, -, -, -, -, -, -, -, ha, htrace⟩ := t.abort_keeps e
    rw [kept.op, hh] at htrace
    exact State.tellsCfg_err (t := t.abort e) _ htrace (by rw [ha, kept.op, Panel.afterErr_host hh]; rfl)
  | waiting t =>
    have kept : Kept s t := kept
    intro hidle
    cases (kept.busy.trans hb).symm.trans hidle

theorem drawPixels_tellsCfg (ps : List Pixel) (s : State) : (drawPixels ps s).TellsCfg s.panel.cfg := by
  induction ps generalizing s with
  | nil => exact State.tellsCfg_ok (t := s.returnToHost .ok) rfl
  | cons q ps ih =>
    rw [drawPixels_cons_resume]
    refine State.resume_tellsCfg_of (s := s.acceptDrawn q ps) rfl rfl fun rest h t => ?_
    obtain rfl : ps = rest := Option.some.inj h
    exact ih t

theorem State.resume_tellsCfg {s : State} (hb : s.busy = true) (hh : s.op.isHost = true) :
    s.resume.TellsCfg (if s.op = .init then .ok else s.panel.cfg) :=
  State.resume_tellsCfg_of hb hh fun ps _ => drawPixels_tellsCfg ps

/-- Settles O37: every end of a host operation is one of the three that rule R40 names. -/
theorem panelCfgFollowsResults : Obligations.PanelCfgFollowsResults := by
  refine ⟨fun s t i hi hx hidle => ?_, fun s t hb hh hx hidle => ?_⟩
  · obtain ⟨r, g, rfl⟩ | ⟨ps, rfl, -, rfl⟩ | ⟨op, hop, -, -, rfl⟩ := exec_cases hx
    · cases hx
      exact ⟨fun _ _ _ => rfl, nofun, nofun⟩
    · exact ⟨nofun, drawPixels_tellsCfg ps s hidle⟩
    · have ends := State.resume_tellsCfg (s := (s.latchFor i).accept op) rfl ((isHost_of_operation hop).trans hi) hidle
      have hinit : op = .init ↔ i = .init := by rw [← Instr.operation_eq_init, hop, Option.some_inj]
      refine ⟨fun r g h => ?_, ends.1, fun h => (ends.2 h).trans (if_congr hinit rfl rfl)⟩
      subst h
      cases hop
  · obtain rfl : s.resume = t := Host.Outcome.next.inj ((step_busy hb).symm.trans hx)
    exact State.resume_tellsCfg hb hh hidle

end Sys2Proof.Machine
end

section
/-! PROOFS. What INIT and SET_ORIENTATION leave established in the panel, run at once or going on after they were held (rules R37, R177,
R203, R262, R281, R282). -/

namespace Sys2Proof.Machine

open Sys2Proof

/-- Log entry 18: `Params.calibrated` is the check that `SendsRequired` writes out. -/
theorem sendsRequired_iff {p : Params} : SendsRequired p ↔ p.calibrated = true := by
  simp [SendsRequired, Params.calibrated, unsettlingOpcodes, and_assoc]

/-- From `s`, with what is known of the panel there, the operation `op` in progress in `a` went on to `t`. -/
structure Running (op : Operation) (s a t : State) : Prop where
  busy : a.busy = true
  isOp : a.op = op
  params : a.params = s.params
  cfg : a.cfg = s.cfg
  panel : a.panel = s.panel
  mprog : a.mprog = expansion s.params s.cfg a.latch op
  bringUp : BringUpInv a
  wentOn : WentOn (a.mprog.drop a.upc) a t

theorem Running.of_exec {i : Instr} {op : Operation} {s t : State} (hop : i.operation = some op) (h : exec i s = .next t) :
    Running op s ((s.latchFor i).accept op) t := by
  obtain ⟨-, -, rfl⟩ := (exec_next hop).mp h
  exact ⟨rfl, rfl, rfl, rfl, rfl, rfl, fun _ _ h => absurd h (lt_irrefl 0), (s.latchFor i).start_wentOn op⟩

theorem Running.of_step {s t : State} (hinv : s.Inv) (hb : s.busy = true) (hop : s.op ≠ .setPixel) (h : step s = .next t) :
    Running s.op s s t := by
  obtain rfl : s.resume = t := Host.Outcome.next.inj ((step_busy hb).symm.trans h)
  obtain ⟨-, hbring, -⟩ := id hinv
  exact ⟨hb, rfl, rfl, rfl, rfl, hinv.mprog hb, hbring, State.resume_wentOn hb (hinv.drawing hop)⟩

/-- A host operation that returned `Ok` has completed. -/
theorem Running.panel_of_ok {op : Operation} {s a t : State} (h : Running op s a t) (hh : op.isHost = true) (hidle : t.busy = false)
    (hok : t.trace.getLast? = some (.ret .ok)) : t.panel = Panel.afterOk op s.params s.cfg a.latch s.panel := by
  obtain ⟨pre, -, -, -, ⟨hbusy, -⟩ | ⟨-, -, -, hpanel⟩ | ⟨-, bytes, e, -, htrace, -⟩⟩ := h.wentOn.progress
  · cases hbusy.symm.trans hidle
  · rw [hpanel, h.isOp, h.params, h.cfg, h.panel]
  · rw [htrace, h.isOp, hh, if_pos rfl, List.getLast?_concat] at hok
    cases hok

/-- No word of the bus or the delay service is asked for during the reset pulse, with which INIT begins (rule R172). -/
theorem pulse_before_answered {p : Params} {c : Cfg} {l : Latches} {n : Nat} {m : Micro}
    (hm : (expansion p c l .init)[n]? = some m) (ha : m.isAnswered = true) : 0 < n := by
  obtain ⟨tail, hprogram, -⟩ := expansion_pulse (.inl rfl) p c l
  rw [hprogram] at hm
  by_contra hn
  obtain rfl : n = 0 := by omega
  obtain rfl : Micro.rstSet true = m := Option.some.inj hm
  cases ha

/-- While INIT is held nothing is known of the panel but what the bring-up has done (rules R262, R281). -/
theorem Running.panel_of_held {s a t : State} (h : Running .init s a t) (hbusy : t.busy = true) :
    t.panel = s.panel.broughtUp s.params t.upc := by
  obtain ⟨pre, -, -, -, ⟨-, -, -, hupc, ⟨m, hm, ha⟩, hpanel⟩ | ⟨hidle, -⟩ | ⟨hidle, -⟩⟩ := h.wentOn.progress
  · rw [List.getElem?_drop, ← hupc, h.mprog] at hm
    have performed : 0 < t.upc := pulse_before_answered hm ha
    rw [hpanel, State.panelDuring, h.isOp, if_pos rfl]
    split
    case isTrue h0 =>
      rw [h0, Nat.add_zero] at hupc
      rw [h.bringUp h.busy h.isOp (hupc ▸ performed), h.panel, h.params, hupc]
    case isFalse => rw [h.panel, h.params, hupc]
  · cases hbusy.symm.trans hidle
  · cases hbusy.symm.trans hidle

/-- What INIT establishes, where the panel requires what it sends (rules R189, R282). -/
theorem Panel.initialised_calibrated {p : Params} {c : Cfg} (h : p.calibrated = true) :
    Panel.initialised p c
      = { cfg := .ok, calibrated := true, wordCells := true, frame := some (initFrame p), madctl := some (initMadctl p c), columns := none,
          rows := none, polarity := some c.inv, pixelFormat := some p.colmodParam, awake := some true, displayOn := some true,
          settings := p.configuration, fm := [] } := if_pos h

theorem Panel.initialised_uncalibrated {p : Params} {c : Cfg} (h : ¬ p.calibrated = true) : Panel.initialised p c = Panel.blank .ok := if_neg h

/-- Settles O39: INIT that ended has completed, and INIT that is held has performed at least its reset pulse. -/
theorem initEstablishes : Obligations.InitEstablishes := by
  intro s t h
  obtain ⟨a, running⟩ : ∃ a, Running .init s a t := by
    rcases h with h | ⟨hinv, hb, hop, h⟩
    · exact ⟨_, Running.of_exec (i := .init) rfl h⟩
    · exact ⟨s, hop ▸ Running.of_step hinv hb (hop ▸ nofun) h⟩
  rw [sendsRequired_iff]
  refine ⟨fun hidle hok => ?_, fun hbusy => ?_⟩
  · have panel : t.panel = Panel.initialised s.params s.cfg := running.panel_of_ok rfl hidle hok
    refine ⟨fun hk => ?_, fun hk => panel.trans (Panel.initialised_uncalibrated hk)⟩
    rw [panel, Panel.initialised_calibrated hk, initMadctl_eq]
    exact ⟨rfl, rfl, rfl, rfl, rfl, rfl, rfl, rfl, rfl, rfl⟩
  · rw [running.panel_of_held hbusy, Panel.broughtUp]
    refine ⟨fun hk hc => ?_, fun hfallen => ?_⟩
    · simp only [hc, hk, true_and]
    · rw [if_neg]
      · rfl
      · rintro ⟨hc, hk, -⟩
        exact hfallen.elim (· hk) (· hc)

/-- Settles O38: what INIT leaves of the panel does not depend on the SET_ORIENTATION before it. -/
theorem orientationRegister : Obligations.OrientationRegister := by
  refine ⟨fun s t o h hidle hok => ?_, fun s t u o ht _ hu hidle hok => ?_⟩
  · obtain ⟨a, running, hori⟩ : ∃ a, Running .setOrientation s a t ∧ a.latch.ori = o := by
      rcases h with h | ⟨hinv, hb, hop, hori, h⟩
      · exact ⟨_, Running.of_exec (i := .setOrientation o) rfl h, rfl⟩
      · exact ⟨s, hop ▸ Running.of_step hinv hb (hop ▸ nofun) h, hori⟩
    have panel : t.panel = s.panel.oriented s.params s.cfg o := hori ▸ running.panel_of_ok rfl hidle hok
    refine ⟨fun hc hk => ?_, fun hfallen => ?_⟩
    · rw [panel, Panel.oriented, Panel.claim_standing _ (Panel.standing_of hc hk), orientationMadctl_eq]
      exact ⟨hc, hk, rfl, rfl, rfl, rfl, rfl⟩
    · rw [panel, Panel.oriented, Panel.claim_fallen _ (Panel.fallen_of hfallen)]
  · obtain ⟨hparams, hcfg, -⟩ := exec_sameSetup (i := .setOrientation o) nofun ht
    have panel : u.panel = Panel.initialised t.params t.cfg := (Running.of_exec (i := .init) rfl hu).panel_of_ok rfl hidle hok
    rw [hparams, hcfg] at panel
    rw [sendsRequired_iff]
    refine ⟨fun hk => ?_, fun hk => panel.trans (Panel.initialised_uncalibrated hk)⟩
    rw [panel, Panel.initialised_calibrated hk, initMadctl_eq]
    exact ⟨rfl, fun h => congrArg some (if_pos h)⟩

end Sys2Proof.Machine
end

section
/-! PROOFS. The cells of the panel's frame memory after SET_PIXEL and DRAW (rules R66, R233). -/

namespace Sys2Proof.Machine

open Sys2Proof

theorem State.cell_idle {s : State} (hb : s.busy = false) (x y : Word) : s.cell x y = s.panel.fm.read (cellKey x y) := by
  simp [State.cell, hb]

/-- The panel stands under the premises that a claim on a cell takes, wherever the cell is (rule R66 (a), (c)). -/
def Panel.Ready (q : Panel) : Prop := q.standing = true ∧ q.wordCells = true

section

variable {p : Params} {q : Panel}

theorem Panel.pixelWritten_inside {l : Latches} (h : q.Ready) (hin : inFrame p q.frame l.x l.y = true) :
    q.pixelWritten p l = { q with columns := some ⟨l.x, l.x⟩, rows := some ⟨l.y, l.y⟩, fm := q.fm.write (cellKey l.x l.y) l.color } := by
  obtain ⟨hs, hw⟩ := h
  rw [Panel.pixelWritten, Panel.claim_standing _ hs, if_pos (by rw [hw, hin]; rfl)]

/-- A pixel, inside the panel or outside it, leaves the premises and the frame (rule R66). -/
theorem Panel.Ready.pixelWritten (h : q.Ready) (l : Latches) : (q.pixelWritten p l).Ready ∧ (q.pixelWritten p l).frame = q.frame := by
  obtain ⟨hs, hw⟩ := h
  rw [Panel.pixelWritten, Panel.claim_standing _ hs]
  split
  · exact ⟨⟨hs, hw⟩, rfl⟩
  · exact ⟨⟨hs, hw⟩, rfl⟩

/-- What is known of the cell (x, y) after a pixel inside the panel. -/
theorem Panel.read_pixelWritten {l : Latches} (h : q.Ready) (hin : inFrame p q.frame l.x l.y = true) (x y : Word) :
    (q.pixelWritten p l).fm.read (cellKey x y) = if l.x = x ∧ l.y = y then some l.color else q.fm.read (cellKey x y) := by
  rw [Panel.pixelWritten_inside h hin]
  split
  case isTrue hxy =>
    obtain ⟨rfl, rfl⟩ := hxy
    exact FrameMem.read_write_same ..
  case isFalse hxy =>
    refine FrameMem.read_write_other _ _ fun hkey => hxy ?_
    obtain ⟨hx, hy⟩ := cellKey_inj hkey
    exact ⟨hx.symm, hy.symm⟩

theorem Panel.drawn_concat (ps : List Pixel) (r : Pixel) :
    q.drawn p (ps ++ [r]) = (q.drawn p ps).pixelWritten p ⟨r.x, r.y, r.color, .normal, r.x, r.y, r.x, r.y⟩ := by
  simp [Panel.drawn]

theorem Panel.Ready.drawn (h : q.Ready) (ps : List Pixel) : (q.drawn p ps).Ready ∧ (q.drawn p ps).frame = q.frame := by
  induction ps using List.reverseRecOn with
  | nil => exact ⟨h, rfl⟩
  | append_singleton ps r ih =>
    obtain ⟨ready, frame⟩ := ih
    rw [Panel.drawn_concat]
    exact (ready.pixelWritten _).imp_right (·.trans frame)

theorem lastColour_concat (ps : List Pixel) (r : Pixel) (x y : Word) :
    lastColour (ps ++ [r]) x y = if r.x = x ∧ r.y = y then some r.color else lastColour ps x y := by
  simp only [lastColour, List.reverse_append, List.reverse_singleton, List.singleton_append, List.find?_cons]
  by_cases h : r.x = x ∧ r.y = y
  · rw [if_pos h]
    simp [h]
  · rw [if_neg h]
    have other : (r.x == x && r.y == y) = false := by simpa using h
    rw [other]

theorem lastColour_cons_of_not_after {r : Pixel} {ps : List Pixel} (h : ∀ u ∈ ps, (u.x, u.y) ≠ (r.x, r.y)) :
    lastColour (r :: ps) r.x r.y = some r.color := by
  have none_after : ps.reverse.find? (fun u => u.x == r.x && u.y == r.y) = none := by
    simpa using h
  simp [lastColour, List.find?_append, none_after]

/-- After pixels inside the panel each cell has the colour that the list gives it last (rule R233). -/
theorem Panel.read_drawn (h : q.Ready) {ps : List Pixel} (hin : ∀ r ∈ ps, inFrame p q.frame r.x r.y = true) (x y : Word) :
    (q.drawn p ps).fm.read (cellKey x y) = (lastColour ps x y).or (q.fm.read (cellKey x y)) := by
  induction ps using List.reverseRecOn with
  | nil => rfl
  | append_singleton ps r ih =>
    obtain ⟨ready, frame⟩ := h.drawn (p := p) ps
    have inside : inFrame p (q.drawn p ps).frame r.x r.y = true := frame ▸ hin r (by simp)
    rw [Panel.drawn_concat, Panel.read_pixelWritten ready inside, lastColour_concat, ih fun u hu => hin u (by simp [hu])]
    split <;> rfl

end

/-- Settles O35: every pixel leaves the premises and the frame, so the pixels of a DRAW are read one after another. -/
theorem pixelWriteEffect : Obligations.PixelWriteEffect := by
  refine ⟨fun s x y c rest hb hr => ?_, fun s ps rest hb hr => ?_⟩
  · obtain ⟨t, hx, done⟩ := exec_setPixel_performed (x := x) (y := y) (c := c) hb hr
    obtain ⟨idle, -⟩ := done.completed
    have panel : t.panel = s.panel.pixelWritten s.params ⟨x, y, c, s.latch.ori, x, y, x, y⟩ := done.panel
    refine ⟨t, hx, fun hc hk hw hin => ?_, fun hfallen x' y' => ?_⟩
    · have ready : s.panel.Ready := ⟨Panel.standing_of hc hk, hw⟩
      refine ⟨?_, fun x' y' hother => ?_, ?_⟩
      · rw [State.cell_idle idle, panel, Panel.read_pixelWritten ready hin]
        exact if_pos ⟨rfl, rfl⟩
      · rw [State.cell_idle idle, State.cell_idle hb, panel, Panel.read_pixelWritten ready hin]
        refine if_neg ?_
        rintro ⟨rfl, rfl⟩
        exact hother rfl
      · rw [panel, Panel.pixelWritten_inside ready hin]
        exact ⟨rfl, rfl⟩
    · rw [State.cell_idle idle, panel]
      rcases s.panel.pixelWritten_fm s.params ⟨x, y, c, s.latch.ori, x, y, x, y⟩ with h | ⟨hs, hw, hin, -⟩
      · rw [h]
        rfl
      · obtain ⟨hc, hk⟩ := Panel.standing_iff.mp hs
        have inside : inFrame s.params s.panel.frame x y = true := hin
        simp [hc, hk, hw, inside] at hfallen
  · obtain ⟨t, ht, drew⟩ := drawPixels_ok ps hr
    have panel : (t.returnToHost .ok).panel = s.panel.drawn s.params ps := drew.panel
    refine ⟨_, (exec_draw_idle ps hb).trans (congrArg _ ht), fun hc hk hw => ?_⟩
    have ready : s.panel.Ready := ⟨Panel.standing_of hc hk, hw⟩
    refine ⟨fun hin x y => ?_, fun before q after hps hq hafter => ?_⟩
    · rw [State.cell_idle rfl, State.cell_idle hb, panel, Panel.read_drawn ready hin]
      cases lastColour ps x y <;> rfl
    · obtain ⟨ready', frame⟩ := ready.drawn (p := s.params) before
      have split : s.panel.drawn s.params ps = (s.panel.drawn s.params before).drawn s.params (q :: after) := by
        rw [hps]
        exact List.foldl_append
      rw [State.cell_idle rfl, panel, split, Panel.read_drawn ready', lastColour_cons_of_not_after fun r hr => (hafter r hr).2]
      · rfl
      · rw [frame]
        exact List.forall_mem_cons.mpr ⟨hq, fun r hr => (hafter r hr).1⟩

end Sys2Proof.Machine
end
